-- ==== Sys2Proof/Word.lean ====
section
/-! DEFINITION. The word and byte types (00_scope.md R9, R10).

A register holds a 64-bit pattern. `BitVec.toInt` is the spec's `s64`, `BitVec.toNat` its `u64`, and
`BitVec.ofInt 64 n` "writing an integer n into a 64-bit register stores the pattern n mod 2^64" (R10). -/

namespace Sys2Proof

/-- A 64-bit pattern: every limb, η and every matrix entry is one (R9, `WORD`). -/
abbrev Word := BitVec 64

/-- Eight bits. -/
abbrev Byte := BitVec 8

end Sys2Proof
end

