-- ==== Sys2Proof/Syntax.lean ====
section
/-! DEFINITION. The syntax: the eight commands, the command word's fields, the names of the registers and of the
window's slots, and the agents' steps (30_encoding.md; 10_state.md R20; 20_memory.md R41). -/

namespace Sys2Proof

/-- The eight commands, one constructor per row of spec/opcode_table.json (R60). Every operand is a fixed register
named in the command's rule, so no constructor has an argument (R57). -/
inductive Instr where
  /-- INIT (R98): set up the driver state from X and MOD. -/
  | init
  /-- DIVSTEPS_CT (R80): 62 divsteps in constant time. -/
  | divstepsCt
  /-- DIVSTEPS_VT (R82): 62 divsteps in variable time. -/
  | divstepsVt
  /-- UPDATE_DE (R86): apply T to (D, E) modulo M. -/
  | updateDe
  /-- UPDATE_FG (R92): apply T to (F, G) exactly. -/
  | updateFg
  /-- NORMALIZE (R71): fold a sign into D and reduce D into [0, M). -/
  | normalize
  /-- MODINV (R100): constant-time inverse. -/
  | modinv
  /-- MODINV_VAR (R101): variable-time inverse. -/
  | modinvVar
deriving DecidableEq, Repr

/-- The two fields of the format CMDW (R57): OP in bits 7:0 and RSV in bits 63:8. -/
structure CmdFields where
  op  : Byte
  rsv : BitVec 56
deriving DecidableEq, Repr

/-- Why a word is no command (R62), and why bytes are no word. -/
inductive DecodeError where
  /-- Fewer than the eight bytes of a command word are given. -/
  | truncated
  /-- RSV ≠ 0: illegal whatever its OP (R62). -/
  | reservedBits
  /-- RSV = 0 and OP is 0x00 or in 0x09 to 0xFF (R62). -/
  | reservedOpcode
deriving DecidableEq, Repr

/-- The five-limb registers (R20, R23). -/
inductive LimbReg where
  | mod | x | d | e | f | g
deriving DecidableEq, Repr

/-- The 64-bit register cells that hold state: the scalars, and each limb of each five-limb register (R20).
CMD has no state (R39) and STATUS is `Status`. -/
inductive Reg where
  | eta | iter | tu | tv | tq | tr | modinv62
  | limb (V : LimbReg) (i : Fin 5)
deriving DecidableEq, Repr

/-- What an aligned offset of the window names (R41). -/
inductive Slot where
  | cmd
  | status
  | reg (r : Reg)
  | reserved
deriving DecidableEq, Repr

/-- REG in a line of a host script (R68): a scalar register of R41, CMD and STATUS among them, or a limb `V.v[i]`. -/
inductive ScriptReg where
  | cmd
  | status
  | cell (c : Reg)
deriving DecidableEq, Repr

/-- One step of an agent (R67). `off` is a byte offset in the window and `width` the access width in bytes;
R44 admits width 8 only, and the other widths are here so that the machine can refuse them. -/
inductive Event where
  /-- The host's `Read(off)`. -/
  | read (off width : Nat)
  /-- The host's `Write(off, v)`. -/
  | write (off width : Nat) (v : Word)
  /-- The host's `Reset`. -/
  | reset
  /-- The engine's `Complete`. -/
  | complete
deriving DecidableEq, Repr

end Sys2Proof
end

