-- ==== Sys2Proof/WellFormed.lean ====
section
/-! DEFINITION. Which command words, instructions and host accesses are well formed (30_encoding.md R57, R60, R62;
20_memory.md R44). The machine's own tests of an access are `Machine.accessRefusal`. -/

namespace Sys2Proof

/-- The fields of a legal command word: RSV is 0 and OP is one of 0x01 to 0x08 (R57, R60). -/
def CmdFields.wf (c : CmdFields) : Bool :=
  c.rsv == 0 && decide (1 ≤ c.op.toNat) && decide (c.op.toNat ≤ 8)

/-- The OP number of an instruction (R60, column OP). -/
def Instr.opNumber : Instr → Nat
  | .init => 0x01
  | .divstepsCt => 0x02
  | .divstepsVt => 0x03
  | .updateDe => 0x04
  | .updateFg => 0x05
  | .normalize => 0x06
  | .modinv => 0x07
  | .modinvVar => 0x08

/-- An instruction has no operand (R57, R58), so the one thing to check is that its fields make a legal word. -/
def Instr.wf (i : Instr) : Bool :=
  CmdFields.wf ⟨BitVec.ofNat 8 i.opNumber, 0⟩

/-- An access the window admits: 64 bits wide, at a multiple of 8, below 0x200 (R44). -/
def accessWf (off width : Nat) : Bool :=
  width == 8 && off % 8 == 0 && decide (off < 0x200)

/-- A well-formed step of an agent: its access, if it is one, is one the window admits. -/
def Event.wf : Event → Bool
  | .read off width => accessWf off width
  | .write off width _ => accessWf off width
  | .reset => true
  | .complete => true

end Sys2Proof
end

