-- ==== Sys2Proof/Decode.lean ====
section
/-! DEFINITION. Decoding a command word, total on any word and any bytes, and encoding a command
(30_encoding.md R57 to R62; 20_memory.md R43). -/

namespace Sys2Proof

/-- OP, bits 7:0 (R57). -/
def opField (w : Word) : Byte := w.extractLsb' 0 8

/-- RSV, bits 63:8 (R57). -/
def rsvField (w : Word) : BitVec 56 := w.extractLsb' 8 56

/-- The command an OP names (R60), none for a reserved OP (R62). -/
def instrOfOp (op : Byte) : Option Instr :=
  match op.toNat with
  | 0x01 => some .init
  | 0x02 => some .divstepsCt
  | 0x03 => some .divstepsVt
  | 0x04 => some .updateDe
  | 0x05 => some .updateFg
  | 0x06 => some .normalize
  | 0x07 => some .modinv
  | 0x08 => some .modinvVar
  | _ => none

/-- Decode a 64-bit command word (R60, R62): RSV ≠ 0 is illegal whatever OP is. -/
def decode (w : Word) : Except DecodeError Instr :=
  if rsvField w ≠ 0 then .error .reservedBits
  else match instrOfOp (opField w) with
    | some i => .ok i
    | none => .error .reservedOpcode

/-- The eight bytes of a word, byte k carrying bits 8k+7..8k (R43: little-endian). -/
def wordBytes (w : Word) : List Byte :=
  (List.range 8).map fun k => w.extractLsb' (8 * k) 8

/-- The word that bytes make, the first byte the least significant (R43). -/
def wordOfBytes (bs : List Byte) : Word :=
  BitVec.ofNat 64 (bs.foldr (fun b acc => acc * 256 + b.toNat) 0)

/-- Decode the command at the front of a byte list, with the bytes left over. Every command is one 64-bit word
(R59). -/
def decodeBytes (bs : List Byte) : Except DecodeError (Instr × List Byte) :=
  if bs.length < 8 then .error .truncated
  else match decode (wordOfBytes (bs.take 8)) with
    | .ok i => .ok (i, bs.drop 8)
    | .error r => .error r

/-- The command the decoder reads from an `nbits`-bit instruction with bits `w`, numbered as
spec/opcode_table.json numbers them (bit 0 the least significant). A pattern wider than 64 bits is no command
(R59). -/
def decodeTableWord (nbits w : Nat) : Option Instr :=
  if w % 2 ^ nbits < 2 ^ 64 then
    match decodeBytes (wordBytes (BitVec.ofNat 64 (w % 2 ^ nbits))) with
    | .ok (i, _) => some i
    | .error _ => none
  else none

/-- The command word of each command (R60, column CMD word). -/
def encode : Instr → Word
  | .init => 0x0000000000000001#64
  | .divstepsCt => 0x0000000000000002#64
  | .divstepsVt => 0x0000000000000003#64
  | .updateDe => 0x0000000000000004#64
  | .updateFg => 0x0000000000000005#64
  | .normalize => 0x0000000000000006#64
  | .modinv => 0x0000000000000007#64
  | .modinvVar => 0x0000000000000008#64

end Sys2Proof
end

