-- ==== Sys2Proof/Config.lean ====
section
/-! DEFINITION. What an implementation fixes, and the free values (00_scope.md R9; 92_eei_decisions.md D4, D12, D36).

Each constant here is opaque: no proof can see what it is, so a statement holds whatever it is. -/

namespace Sys2Proof.Config

/-- `CHECK_INVARIANTS` (R9, D12), an OPEN parameter: the value STATUS.CHECKS has after reset (R39).
Log 8. -/
opaque checkInvariants : Bool

/-- `ENGINE_BASE` (R9, R40, D4), an OPEN parameter: the host address of the register window. Log 9. -/
opaque engineBase : Nat

/-- The n-th UNSPECIFIED value (R22, D36: "each UNSPECIFIED register value is an independent arbitrary
64-bit draw"). `State.draws` counts the draws made. Log 4. -/
opaque unspecified : Nat → Word

end Sys2Proof.Config
end

