-- ==== Sys2Proof/Machine/State.lean ====
section
/-! DEFINITION. The state of the engine and of its surroundings, plain data (10_state.md R20 to R39), the reasons a
step can stop, and the state after reset (R39, 70_reset_and_hazards.md R127). -/

namespace Sys2Proof.Machine

/-- The fault codes of STATUS.FCODE (60_exceptions.md R110). Codes 0x0C to 0xFF "are never recorded", so they have
no constructor. `FaultCode.code` gives the numbers. -/
inductive FaultCode where
  /-- 0x00: no fault. -/
  | none
  /-- 0x01: a CMD write while idle of a word that is no command. -/
  | illegalCmd
  /-- 0x02: a host write while BUSY = 1. -/
  | busyWrite
  /-- 0x03: not modinfo_valid. -/
  | modinfoInvalid
  /-- 0x04: an operand outside its range. -/
  | operandRange
  /-- 0x05: |u|+|v| > 2^62 or |q|+|r| > 2^62. -/
  | tBound
  /-- 0x06: u·r − v·q ≠ 2^62. -/
  | tDet
  /-- 0x07: F.v[0] even. -/
  | fEven
  /-- 0x08: some η_k outside [−745, 745]. -/
  | etaRange
  /-- 0x09: the low 62 bits of a limb-0 accumulator are not 0. -/
  | lowlimbNonzero
  /-- 0x0A: 12 iterations end with G ≠ 0. -/
  | iterOverflow
  /-- 0x0B: not final_ok. -/
  | finalState
deriving DecidableEq, Repr

/-- A five-limb register: v[0] to v[4], v[0] the least significant (R23, R42). -/
structure Limbs where
  v0 : Word
  v1 : Word
  v2 : Word
  v3 : Word
  v4 : Word
deriving DecidableEq, Repr

/-- The registers of R20 that are neither CMD (no state) nor STATUS. -/
structure Regs where
  /-- ETA, η in two's complement (R30). -/
  eta : Word
  /-- ITER, the driver iterations done (R32). -/
  iter : Word
  /-- TU, TV, TQ, TR: the matrix [[u, v], [q, r]] (R31). -/
  tu : Word
  tv : Word
  tq : Word
  tr : Word
  /-- MODINV62, the inverse of M modulo 2^62 (R26). -/
  modinv62 : Word
  /-- MOD, the modulus M (R25). -/
  mod : Limbs
  /-- X, the input and the output of the inverses (R27). -/
  x : Limbs
  /-- D and E, the residues d and e (R28). -/
  d : Limbs
  e : Limbs
  /-- F and G, the working values f and g (R29). -/
  f : Limbs
  g : Limbs
deriving DecidableEq, Repr

/-- The fields of STATUS (R34); its other bits are reserved and read 0. `statusWord` is the 64-bit word. -/
structure Status where
  busy   : Bool
  done   : Bool
  fault  : Bool
  fcode  : FaultCode
  lastop : Byte
  /-- Hardwired: the parameter CHECK_INVARIANTS (R9, R34). No step changes it. -/
  checks : Bool
deriving DecidableEq, Repr

/-- The machine: the engine's architectural state (R20), and three fields of the model's own that stand for its
surroundings: the free draws made so far (log 4), the agents' steps still to come (R67; log 1), and the values
returned to the host's reads, newest first (log 3). -/
structure State where
  regs     : Regs
  status   : Status
  draws    : Nat
  script   : List Event
  readData : List Word
deriving DecidableEq, Repr

/-- Why the machine, as opposed to the engine, stops. A fault of the engine is no such stop: it is a next state
(R113). -/
inductive Fault where
  /-- Raised by the engine's step when BUSY = 1 while LASTOP is no command. `State.Inv` excludes it, so no run from
  reset reaches it (log 7). Safe: the machine stops where the hardware has no such state. -/
  | busyWithoutCommand
deriving DecidableEq, Repr

/-- What the machine gives no meaning to. -/
inductive Refusal where
  /-- Raised by `exec` for a command that has no meaning yet (none at present). Safe. -/
  | notModelled (mnemonic : String)
  /-- Raised by a host access of a width other than 64 bits: "refused: this spec gives it no meaning" (R44). Safe. -/
  | accessWidth
  /-- Raised by a host access at an offset that is no multiple of 8 (R44). Safe. -/
  | misaligned
  /-- Raised by a host access at an offset ≥ 0x200, "outside the engine" (R44). Safe. -/
  | outsideWindow
deriving DecidableEq, Repr

/-- Five zero limbs. -/
def Limbs.zero : Limbs := ⟨0, 0, 0, 0, 0⟩

/-- The limbs of 1, INIT's e (R98). -/
def Limbs.one : Limbs := ⟨1, 0, 0, 0, 0⟩

/-- Every register is 0 after reset (R39). -/
def Regs.reset : Regs where
  eta := 0
  iter := 0
  tu := 0
  tv := 0
  tq := 0
  tr := 0
  modinv62 := 0
  mod := Limbs.zero
  x := Limbs.zero
  d := Limbs.zero
  e := Limbs.zero
  f := Limbs.zero
  g := Limbs.zero

/-- STATUS after reset: the engine idle (R39, R127); CHECKS is the parameter `checks`. -/
def Status.reset (checks : Bool) : Status where
  busy := false
  done := false
  fault := false
  fcode := .none
  lastop := 0
  checks := checks

/-- The machine right after reset (R39, R127). The model's own fields start empty: DESIGN CHOICE (log 1, log 3,
log 4). -/
def State.reset : State where
  regs := Regs.reset
  status := Status.reset Config.checkInvariants
  draws := 0
  script := []
  readData := []

end Sys2Proof.Machine
end

