-- ==== Sys2Proof/Machine/Flags.lean ====
section
/-! DEFINITION. STATUS, the engine's only status bits (10_state.md R34, R36): the word the host reads, and what
acceptance, completion and a fault do to its fields (30_encoding.md R63, R65; 60_exceptions.md R113). The engine has
no arithmetic flags (R36). -/

namespace Sys2Proof.Machine

/-- The number recorded in STATUS.FCODE (R110). -/
def FaultCode.code : FaultCode → Byte
  | .none => 0x00
  | .illegalCmd => 0x01
  | .busyWrite => 0x02
  | .modinfoInvalid => 0x03
  | .operandRange => 0x04
  | .tBound => 0x05
  | .tDet => 0x06
  | .fEven => 0x07
  | .etaRange => 0x08
  | .lowlimbNonzero => 0x09
  | .iterOverflow => 0x0A
  | .finalState => 0x0B

/-- The 64-bit STATUS word (R34): CHECKS bit 24, LASTOP 23:16, FCODE 15:8, FAULT bit 2, DONE bit 1, BUSY bit 0, the
reserved bits 63:25 and 7:3 read 0. -/
def statusWord (st : Status) : Word :=
  0#39 ++ BitVec.ofBool st.checks ++ st.lastop ++ st.fcode.code ++ 0#5 ++ BitVec.ofBool st.fault ++
    BitVec.ofBool st.done ++ BitVec.ofBool st.busy

/-- Acceptance records OP and clears DONE, for an illegal word too (R63). -/
def statusRecordOp (op : Byte) (st : Status) : Status := { st with lastop := op, done := false }

/-- An accepted legal command sets BUSY (R63). -/
def statusBusy (st : Status) : Status := { st with busy := true }

/-- Completion: BUSY ← 0, DONE ← 1 (R65). -/
def statusDone (st : Status) : Status := { st with busy := false, done := true }

/-- A fault: BUSY ← 0, DONE ← 0, FAULT ← 1, FCODE ← code; LASTOP is kept (R113). -/
def statusFault (code : FaultCode) (st : Status) : Status :=
  { st with busy := false, done := false, fault := true, fcode := code }

end Sys2Proof.Machine
end

