-- ==== Sys2Proof/Machine/Operands.lean ====
section
/-! DEFINITION. Operands: the value of a five-limb register, canonical form, the predicates the commands check on
their operands, the exact-integer forms they compute in, and the registers each command reads and writes
(00_scope.md R11 to R17; 10_state.md R24 to R26; 30_encoding.md R61; 60_exceptions.md R111). -/

namespace Sys2Proof.Machine

/-- 2^62, the radix of a limb (R9). -/
def radix : Int := 4611686018427387904

/-- 2^256, the bound of the modulus (R9, R25). -/
def modulusBound : Int :=
  115792089237316195423570985008687907853269984665640564039457584007913129639936

/-- `ETA_BOUND` (R9): η must stay within [−745, 745]. -/
def etaBound : Int := 745

/-- The divsteps in one matrix, `STEPS` (R9). -/
def stepsPerMatrix : Nat := 62

/-- The driver's iterations, `CT_ITERS` and `VT_MAX_ITERS` (R9). -/
def maxIters : Nat := 12

/-- `a >> 62`, the arithmetic (floor) shift (R11). -/
def sar62 (a : Int) : Int := a / radix

/-- `a & mask62`, the non-negative integer of a's low 62 bits (R11). -/
def low62 (a : Int) : Int := a % radix

/-- `signmask(a)`: −1 when a < 0 and 0 otherwise (R12). -/
def signMask (a : Int) : Int := if a < 0 then -1 else 0

/-- `a & c` for a sign mask c (R71): a when c = −1, 0 when c = 0. -/
def andMask (a c : Int) : Int := if c = 0 then 0 else a

/-- `(a ^ c) − c` for a sign mask c (R71): −a when c = −1, a when c = 0. -/
def negMask (a c : Int) : Int := if c = 0 then a else -a

/-- Five exact integers: the limbs during a computation (R11: arithmetic "is on exact mathematical integers"). -/
structure IntLimbs where
  v0 : Int
  v1 : Int
  v2 : Int
  v3 : Int
  v4 : Int
deriving DecidableEq, Repr

/-- The limbs read as signed integers, `s64` of each (R10). -/
def Limbs.ints (V : Limbs) : IntLimbs :=
  ⟨V.v0.toInt, V.v1.toInt, V.v2.toInt, V.v3.toInt, V.v4.toInt⟩

/-- The integers written into 64-bit limbs, each modulo 2^64 (R10). -/
def IntLimbs.words (r : IntLimbs) : Limbs :=
  ⟨BitVec.ofInt 64 r.v0, BitVec.ofInt 64 r.v1, BitVec.ofInt 64 r.v2, BitVec.ofInt 64 r.v3,
    BitVec.ofInt 64 r.v4⟩

/-- Σ v[i]·2^(62·i) (R16), in Horner's form. -/
def IntLimbs.total (r : IntLimbs) : Int :=
  r.v0 + radix * (r.v1 + radix * (r.v2 + radix * (r.v3 + radix * r.v4)))

/-- `value(V)`, the exact integer a five-limb register holds (R16). -/
def value (V : Limbs) : Int := V.ints.total

/-- `canon(n)`, the canonical limbs of n (R17). -/
def canon (n : Int) : Limbs :=
  let n1 := sar62 n
  let n2 := sar62 n1
  let n3 := sar62 n2
  let n4 := sar62 n3
  IntLimbs.words ⟨low62 n, low62 n1, low62 n2, low62 n3, n4⟩

/-- A limb in [0, 2^62). -/
abbrev LimbDigit (a : Int) : Prop := 0 ≤ a ∧ a < radix

/-- A limb in (−2^62, 2^62). -/
abbrev LimbBounded (a : Int) : Prop := -radix < a ∧ a < radix

/-- Canonical: limbs v[0..3] in [0, 2^62) and v[4] any signed word (R17). -/
abbrev Canonical (V : Limbs) : Prop :=
  LimbDigit V.v0.toInt ∧ LimbDigit V.v1.toInt ∧ LimbDigit V.v2.toInt ∧ LimbDigit V.v3.toInt

/-- Fully normalized: canonical with v[4] ≥ 0 (R17). -/
abbrev Normalized (V : Limbs) : Prop := Canonical V ∧ 0 ≤ V.v4.toInt

/-- Every limb in (−2^62, 2^62) (R72, R87, R93). -/
abbrev LimbsBounded (V : Limbs) : Prop :=
  LimbBounded V.v0.toInt ∧ LimbBounded V.v1.toInt ∧ LimbBounded V.v2.toInt ∧
    LimbBounded V.v3.toInt ∧ LimbBounded V.v4.toInt

/-- Sign-consistent: the value is negative exactly when v[4] is (R24). -/
abbrev SignConsistent (V : Limbs) : Prop := value V < 0 ↔ V.v4.toInt < 0

/-- `modinfo_valid` (R111): MOD fully normalized, 0 < M < 2^256, M odd, and MODINV62 · MOD.v[0] ≡ 1 (mod 2^62). -/
abbrev ModinfoValid (m : Limbs) (inv : Word) : Prop :=
  Normalized m ∧ 0 < value m ∧ value m < modulusBound ∧ value m % 2 = 1 ∧
    ((inv.toNat : Int) * (m.v0.toNat : Int)) % radix = 1

/-- `x_ok(X)` (R97): canonical, with −M < value(X) < M. -/
abbrev XOk (x m : Limbs) : Prop := Canonical x ∧ -value m < value x ∧ value x < value m

/-- `de_operand_ok(V)` (R87 check 4) and `norm_operand_ok(V)` (R72), the same three conditions: each limb in
(−2^62, 2^62), −2M < value(V) < M, and V sign-consistent. -/
abbrev ResidueOk (V m : Limbs) : Prop :=
  LimbsBounded V ∧ -2 * value m < value V ∧ value V < value m ∧ SignConsistent V

/-- The transition matrix [[u, v], [q, r]] (R31) in exact integers. -/
structure IntMatrix where
  u : Int
  v : Int
  q : Int
  r : Int
deriving DecidableEq, Repr

/-- The matrix that TU, TV, TQ, TR hold, each read as a signed word (R31). -/
def Regs.matrix (r : Regs) : IntMatrix := ⟨r.tu.toInt, r.tv.toInt, r.tq.toInt, r.tr.toInt⟩

/-- |u| + |v| ≤ 2^62 and |q| + |r| ≤ 2^62 (R87 check 2, R93 check 1). -/
abbrev TBoundOk (T : IntMatrix) : Prop :=
  (T.u.natAbs : Int) + T.v.natAbs ≤ radix ∧ (T.q.natAbs : Int) + T.r.natAbs ≤ radix

/-- The determinant u·r − v·q. -/
def IntMatrix.det (T : IntMatrix) : Int := T.u * T.r - T.v * T.q

/-- The five cells of a five-limb register. -/
def limbCells (V : LimbReg) : List Reg := [.limb V 0, .limb V 1, .limb V 2, .limb V 3, .limb V 4]

/-- The four cells of the matrix. -/
def matrixCells : List Reg := [.tu, .tv, .tq, .tr]

/-- The registers a command reads at acceptance (R61, column "reads"). -/
def readsOf : Instr → List Reg
  | .init => limbCells .x ++ limbCells .mod ++ [.modinv62]
  | .divstepsCt => [.eta, .limb .f 0, .limb .g 0]
  | .divstepsVt => [.eta, .limb .f 0, .limb .g 0]
  | .updateDe => limbCells .d ++ limbCells .e ++ matrixCells ++ limbCells .mod ++ [.modinv62]
  | .updateFg => limbCells .f ++ limbCells .g ++ matrixCells
  | .normalize => limbCells .d ++ [.limb .f 4] ++ limbCells .mod ++ [.modinv62]
  | .modinv => limbCells .x ++ limbCells .mod ++ [.modinv62]
  | .modinvVar => limbCells .x ++ limbCells .mod ++ [.modinv62]

/-- The destination registers of a command (R61, column "writes"). -/
def writesOf : Instr → List Reg
  | .init => limbCells .d ++ limbCells .e ++ limbCells .f ++ limbCells .g ++ [.eta, .iter]
  | .divstepsCt => .eta :: matrixCells
  | .divstepsVt => .eta :: matrixCells
  | .updateDe => limbCells .d ++ limbCells .e
  | .updateFg => limbCells .f ++ limbCells .g
  | .normalize => limbCells .d
  | .modinv => limbCells .x ++ limbCells .d ++ limbCells .e ++ limbCells .f ++ limbCells .g ++
      (.eta :: matrixCells) ++ [.iter]
  | .modinvVar => limbCells .x ++ limbCells .d ++ limbCells .e ++ limbCells .f ++ limbCells .g ++
      (.eta :: matrixCells) ++ [.iter]

/-- Every register but STATUS, MOD and MODINV62: those a fault leaves UNSPECIFIED (R113). -/
def faultedRegs : List Reg :=
  [.eta, .iter] ++ matrixCells ++ limbCells .x ++ limbCells .d ++ limbCells .e ++ limbCells .f ++
    limbCells .g

end Sys2Proof.Machine
end

