-- ==== Sys2Proof/Machine/Ops.lean ====
section
/-! DEFINITION. The shared operations: reading and writing a register cell, drawing UNSPECIFIED values, raising a
fault, completing a command, accepting one, reset (30_encoding.md R63 to R66; 60_exceptions.md R112 to R114;
70_reset_and_hazards.md R127). -/

namespace Sys2Proof.Machine

/-- Limb i of a five-limb register, `V.v[i]` (R14). -/
def Limbs.limb (V : Limbs) (i : Fin 5) : Word :=
  match i with
  | 0 => V.v0
  | 1 => V.v1
  | 2 => V.v2
  | 3 => V.v3
  | 4 => V.v4

/-- `V.v[i] <- w` (R14). -/
def Limbs.setLimb (V : Limbs) (i : Fin 5) (w : Word) : Limbs :=
  match i with
  | 0 => { V with v0 := w }
  | 1 => { V with v1 := w }
  | 2 => { V with v2 := w }
  | 3 => { V with v3 := w }
  | 4 => { V with v4 := w }

/-- The five limbs a name stands for. -/
def Regs.limbs (r : Regs) : LimbReg → Limbs
  | .mod => r.mod
  | .x => r.x
  | .d => r.d
  | .e => r.e
  | .f => r.f
  | .g => r.g

/-- Replace the five limbs a name stands for. -/
def Regs.setLimbs (r : Regs) (V : LimbReg) (l : Limbs) : Regs :=
  match V with
  | .mod => { r with mod := l }
  | .x => { r with x := l }
  | .d => { r with d := l }
  | .e => { r with e := l }
  | .f => { r with f := l }
  | .g => { r with g := l }

/-- Read a register cell. No register is aliased or hardwired (R21). -/
def Regs.get (r : Regs) : Reg → Word
  | .eta => r.eta
  | .iter => r.iter
  | .tu => r.tu
  | .tv => r.tv
  | .tq => r.tq
  | .tr => r.tr
  | .modinv62 => r.modinv62
  | .limb V i => (r.limbs V).limb i

/-- Write a register cell, the full 64 bits (R47). -/
def Regs.set (r : Regs) (c : Reg) (w : Word) : Regs :=
  match c with
  | .eta => { r with eta := w }
  | .iter => { r with iter := w }
  | .tu => { r with tu := w }
  | .tv => { r with tv := w }
  | .tq => { r with tq := w }
  | .tr => { r with tr := w }
  | .modinv62 => { r with modinv62 := w }
  | .limb V i => r.setLimbs V ((r.limbs V).setLimb i w)

/-- Give each register cell of a list an UNSPECIFIED value, draws number `first` on, one each (R22, D36). -/
def Regs.unspecify (first : Nat) : List Reg → Regs → Regs
  | [], r => r
  | c :: cells, r => Regs.unspecify (first + 1) cells (r.set c (Config.unspecified first))

/-- Give each register cell of a list an UNSPECIFIED value, an independent new draw each (R114, D36). -/
def State.unspecify (s : State) (cells : List Reg) : State :=
  { s with regs := s.regs.unspecify s.draws cells, draws := s.draws + cells.length }

/-- `raise Fault(code)` (R113): the status of a fault, and every register except STATUS, MOD and MODINV62
UNSPECIFIED. The one operation that takes a fault; nothing returns from it but reset (R118). -/
def State.raiseFault (code : FaultCode) (s : State) : State :=
  { s.unspecify faultedRegs with status := statusFault code s.status }

/-- Completion (R65): every destination register with the value its rule computes, BUSY ← 0, DONE ← 1, together. -/
def State.finish (r : Regs) (s : State) : State := { s with regs := r, status := statusDone s.status }

/-- Completion with a violated precondition while CHECK_INVARIANTS is false (R114): the destination registers hold
UNSPECIFIED values, and the command completes all the same. -/
def State.finishUnspecified (cells : List Reg) (s : State) : State :=
  { s.unspecify cells with status := statusDone s.status }

/-- `check(cond, code)` followed by `precond(cond)` (R15): the first that fails ends the rule with its code. What
a failure then means is `State.conclude`'s to say. -/
def require (cond : Prop) [Decidable cond] (code : FaultCode) : Except FaultCode Unit :=
  if cond then .ok () else .error code

/-- End a command whose rule gave `result` and whose destination registers are `cells` (R67: "one total function per
command returning either the new register values or a fault code"). A failed check raises its fault when
CHECK_INVARIANTS is true (R112) and leaves the destinations UNSPECIFIED when it is false (R114). -/
def State.conclude (cells : List Reg) (result : Except FaultCode Regs) (s : State) : State :=
  match result with
  | .ok r => s.finish r
  | .error code => if s.status.checks then s.raiseFault code else s.finishUnspecified cells

/-- The host's write of w to CMD while the engine is idle and not faulted (R63, the last arm): LASTOP and DONE, then
ILLEGAL_CMD for an illegal word (R62) or BUSY for a command. The registers are left as they are, and nothing changes
them while BUSY = 1, so they are the snapshot (log 6). -/
def State.acceptCommand (w : Word) (s : State) : State :=
  let s1 : State := { s with status := statusRecordOp (opField w) s.status }
  match decode w with
  | .ok _ => { s1 with status := statusBusy s1.status }
  | .error _ => s1.raiseFault .illegalCmd

/-- The `Reset` step (R127): every register and STATUS at its reset value, a running command abandoned. CHECKS is
hardwired (R34) and stays; the model's own fields are outside the engine and stay (log 10). -/
def State.resetEngine (s : State) : State :=
  { s with regs := Regs.reset, status := Status.reset s.status.checks }

end Sys2Proof.Machine
end

