-- ==== Sys2Proof/Machine/Divsteps.lean ====
section
/-! DEFINITION. The divstep, the 62-divstep function, DIVSTEPS_CT and DIVSTEPS_VT (41_divsteps.md R76 to R84). -/

namespace Sys2Proof.Machine

/-- The triple (η, F, G) that a divstep acts on (R76). -/
structure DivTriple where
  eta : Int
  f : Int
  g : Int
deriving DecidableEq, Repr

/-- One divstep (R76). The divisions are exact when F is odd. -/
def divstep (t : DivTriple) : DivTriple :=
  if t.eta < 0 ∧ t.g % 2 = 1 then ⟨-t.eta - 1, t.g, (t.g - t.f) / 2⟩
  else if t.g % 2 = 1 then ⟨t.eta - 1, t.f, (t.g + t.f) / 2⟩
  else ⟨t.eta - 1, t.f, t.g / 2⟩

/-- n divsteps. -/
def divsteps : Nat → DivTriple → DivTriple
  | 0, t => t
  | n + 1, t => divsteps n (divstep t)

/-- S_k · T, where S_k is the matrix of the case the divstep on `t` takes (R77). -/
def stepMatrix (t : DivTriple) (T : IntMatrix) : IntMatrix :=
  if t.eta < 0 ∧ t.g % 2 = 1 then ⟨2 * T.q, 2 * T.r, T.q - T.u, T.r - T.v⟩
  else if t.g % 2 = 1 then ⟨2 * T.u, 2 * T.v, T.q + T.u, T.r + T.v⟩
  else ⟨2 * T.u, 2 * T.v, T.q, T.r⟩

/-- The product S_{n−1} ⋯ S_0 · T along n divsteps from `t` (R77). -/
def divstepMatrix : Nat → DivTriple → IntMatrix → IntMatrix
  | 0, _, T => T
  | n + 1, t, T => divstepMatrix n (divstep t) (stepMatrix t T)

/-- T₀, the identity (R77). -/
def IntMatrix.one : IntMatrix := ⟨1, 0, 0, 1⟩

/-- The start of divsteps62 (R77): (η₀, F₀, G₀) = (η, u64(f0), u64(g0)). -/
def wordTriple (eta f0 g0 : Word) : DivTriple := ⟨eta.toInt, f0.toNat, g0.toNat⟩

/-- `divsteps62(η, f0, g0)` = (η₆₂, T₆₂) (R77). -/
def divsteps62 (eta f0 g0 : Word) : Int × IntMatrix :=
  ((divsteps stepsPerMatrix (wordTriple eta f0 g0)).eta,
    divstepMatrix stepsPerMatrix (wordTriple eta f0 g0) IntMatrix.one)

/-- −745 ≤ η ≤ 745 (R9, R79). -/
def etaOk (eta : Int) : Bool := decide (-etaBound ≤ eta ∧ eta ≤ etaBound)

/-- Every η_k for k in 0..n is in [−745, 745] (R79 check 2). -/
def etaStaysOk : Nat → DivTriple → Bool
  | 0, t => etaOk t.eta
  | n + 1, t => etaOk t.eta && etaStaysOk n (divstep t)

/-- Write η₆₂ and T₆₂ to ETA, TU, TV, TQ, TR (R77). -/
def Regs.setDivsteps (r : Regs) (res : Int × IntMatrix) : Regs :=
  { r with
    eta := BitVec.ofInt 64 res.1
    tu := BitVec.ofInt 64 res.2.u
    tv := BitVec.ofInt 64 res.2.v
    tq := BitVec.ofInt 64 res.2.q
    tr := BitVec.ofInt 64 res.2.r }

/-- The checks and the result that both divstep commands share (R77, R79): F_EVEN, then ETA_RANGE, then
divsteps62 of (ETA, F.v[0], G.v[0]). -/
def divstepsRule (r : Regs) : Except FaultCode Regs := do
  require (r.f.v0.toNat % 2 = 1) .fEven
  require (etaStaysOk stepsPerMatrix (wordTriple r.eta r.f.v0 r.g.v0) = true) .etaRange
  .ok (r.setDivsteps (divsteps62 r.eta r.f.v0 r.g.v0))

/-- DIVSTEPS_CT's rule (R80): "the normative result is rule R77". `Machine.ctProcedure` is the word-level sequence. -/
def divstepsCtRule (r : Regs) : Except FaultCode Regs := divstepsRule r

/-- DIVSTEPS_VT's rule (R82): "The normative result is rule R77" (D27). `Machine.vtProcedure` is the procedure. -/
def divstepsVtRule (r : Regs) : Except FaultCode Regs := divstepsRule r

/-- DIVSTEPS_CT (R80). -/
def execDivstepsCt (s : State) : Host.Outcome State Fault Refusal :=
  .next (s.conclude (writesOf .divstepsCt) (divstepsCtRule s.regs))

/-- DIVSTEPS_VT (R82). -/
def execDivstepsVt (s : State) : Host.Outcome State Fault Refusal :=
  .next (s.conclude (writesOf .divstepsVt) (divstepsVtRule s.regs))

end Sys2Proof.Machine
end

