-- ==== Sys2Proof/Machine/MatrixUpdate.lean ====
section
/-! DEFINITION. The matrix updates UPDATE_DE and UPDATE_FG (42_matrix_update.md R85 to R95). -/

namespace Sys2Proof.Machine

/-- The limb-wise terms `a·d[k] + b·e[k] + m[k]·c` of one output row, before carries (R86, R92). -/
def combine (a b c : Int) (d e m : IntLimbs) : IntLimbs :=
  ⟨a * d.v0 + b * e.v0 + m.v0 * c, a * d.v1 + b * e.v1 + m.v1 * c, a * d.v2 + b * e.v2 + m.v2 * c,
    a * d.v3 + b * e.v3 + m.v3 * c, a * d.v4 + b * e.v4 + m.v4 * c⟩

/-- The accumulator run down the limbs (R86, R92): limb 0 is shifted out by 62 bits, then limb k of the sum leaves
its low 62 bits in limb k − 1 of the result, and the last carry is limb 4. -/
def shiftOut (t : IntLimbs) : IntLimbs :=
  let c1 := t.v1 + sar62 t.v0
  let c2 := t.v2 + sar62 c1
  let c3 := t.v3 + sar62 c2
  let c4 := t.v4 + sar62 c3
  ⟨low62 c1, low62 c2, low62 c3, low62 c4, sar62 c4⟩

/-- Steps 1 and 2 of R86: `md` starts as (u & sd) + (v & se) (C1). -/
def correctionStart (a b : Int) (d e : IntLimbs) : Int :=
  andMask a (signMask d.v4) + andMask b (signMask e.v4)

/-- Steps 3 and 4 of R86: `md − ((inv·cd + md) & mask62)` with cd = u·d[0] + v·e[0] and inv = u64(MODINV62) (C2). -/
def correction (a b : Int) (d e : IntLimbs) (inv : Int) : Int :=
  let md := correctionStart a b d e
  md - low62 (inv * (a * d.v0 + b * e.v0) + md)

/-- The sum of one row of UPDATE_DE before its carries: row (a, b) of T, the operands, and the modulus times the
row's correction (R86). -/
def deRow (a b : Int) (d e m : IntLimbs) (inv : Int) : IntLimbs :=
  combine a b (correction a b d e inv) d e m

/-- The sum of one row of UPDATE_FG before its carries (R92): no modulus. -/
def fgRow (a b : Int) (f g : IntLimbs) : IntLimbs := combine a b 0 f g ⟨0, 0, 0, 0, 0⟩

/-- UPDATE_DE on the register file (R86), its checks in the order of R87 with `operandsOk` as check 4. -/
def updateDeWith (operandsOk : Prop) [Decidable operandsOk] (r : Regs) : Except FaultCode Regs := do
  require (ModinfoValid r.mod r.modinv62) .modinfoInvalid
  require (TBoundOk r.matrix) .tBound
  require (r.matrix.det = radix) .tDet
  require operandsOk .operandRange
  let T := r.matrix
  let rowD := deRow T.u T.v r.d.ints r.e.ints r.mod.ints r.modinv62.toNat
  let rowE := deRow T.q T.r r.d.ints r.e.ints r.mod.ints r.modinv62.toNat
  require (low62 rowD.v0 = 0 ∧ low62 rowE.v0 = 0) .lowlimbNonzero
  .ok { r with d := (shiftOut rowD).words, e := (shiftOut rowE).words }

/-- UPDATE_DE's rule: check 4 is de_operand_ok of D and of E (R87). -/
def updateDeRule (r : Regs) : Except FaultCode Regs :=
  updateDeWith (ResidueOk r.d r.mod ∧ ResidueOk r.e r.mod) r

/-- The (d, e) = (0, 1) of INIT (R98) with the modulus 1: the one pair that a driver meets and R87's check 4 refuses,
since e = 1 is not below M (log 18). -/
abbrev UnitStart (r : Regs) : Prop := value r.mod = 1 ∧ r.d = Limbs.zero ∧ r.e = Limbs.one

/-- UPDATE_DE inside a driver (R99). Check 4 admits INIT's own pair for every valid modulus, 1 among them: the drivers
return 0 for x = 0 (R1, R108 item 5), no check after INIT's can fail (R104), and "the contract wins" over the check
(90_conflicts.md; log 18). -/
def updateDeDriver (r : Regs) : Except FaultCode Regs :=
  updateDeWith ((ResidueOk r.d r.mod ∧ ResidueOk r.e r.mod) ∨ UnitStart r) r

/-- UPDATE_FG's rule on the register file (R92, checks in the order of R93). -/
def updateFgRule (r : Regs) : Except FaultCode Regs := do
  require (TBoundOk r.matrix) .tBound
  require (r.matrix.det = radix) .tDet
  require (LimbsBounded r.f ∧ LimbsBounded r.g) .operandRange
  let T := r.matrix
  let rowF := fgRow T.u T.v r.f.ints r.g.ints
  let rowG := fgRow T.q T.r r.f.ints r.g.ints
  require (low62 rowF.v0 = 0 ∧ low62 rowG.v0 = 0) .lowlimbNonzero
  .ok { r with f := (shiftOut rowF).words, g := (shiftOut rowG).words }

/-- UPDATE_DE (R86). -/
def execUpdateDe (s : State) : Host.Outcome State Fault Refusal :=
  .next (s.conclude (writesOf .updateDe) (updateDeRule s.regs))

/-- UPDATE_FG (R92). -/
def execUpdateFg (s : State) : Host.Outcome State Fault Refusal :=
  .next (s.conclude (writesOf .updateFg) (updateFgRule s.regs))

end Sys2Proof.Machine
end

