-- ==== Sys2Proof/Machine/Normalize.lean ====
section
/-! DEFINITION. LimbRepr and NORMALIZE (40_limbrepr.md R70 to R75). -/

namespace Sys2Proof.Machine

/-- `r[i] <- r[i] + (m[i] & c)` for i in 0..4 (R71 steps 1 and 4). -/
def addMasked (r m : IntLimbs) (c : Int) : IntLimbs :=
  ⟨r.v0 + andMask m.v0 c, r.v1 + andMask m.v1 c, r.v2 + andMask m.v2 c, r.v3 + andMask m.v3 c,
    r.v4 + andMask m.v4 c⟩

/-- `r[i] <- (r[i] ^ c) − c` for i in 0..4 (R71 step 2). -/
def negMasked (r : IntLimbs) (c : Int) : IntLimbs :=
  ⟨negMask r.v0 c, negMask r.v1 c, negMask r.v2 c, negMask r.v3 c, negMask r.v4 c⟩

/-- Carry propagation (R71 steps 3 and 5): from limb 0 up, each limb keeps its low 62 bits and hands the rest on. -/
def propagate (r : IntLimbs) : IntLimbs :=
  let r1 := r.v1 + sar62 r.v0
  let r2 := r.v2 + sar62 r1
  let r3 := r.v3 + sar62 r2
  let r4 := r.v4 + sar62 r3
  ⟨low62 r.v0, low62 r1, low62 r2, low62 r3, r4⟩

/-- The five steps of `normalize_62(r, sign, M)` (R70, R71). -/
def normalize62 (r : IntLimbs) (sign : Int) (m : IntLimbs) : IntLimbs :=
  let r1 := addMasked r m (signMask r.v4)
  let r2 := negMasked r1 (signMask sign)
  let r3 := propagate r2
  let r4 := addMasked r3 m (signMask r3.v4)
  propagate r4

/-- NORMALIZE's rule on the register file (R71): the checks MODINFO_INVALID and OPERAND_RANGE, then D. -/
def normalizeRule (r : Regs) : Except FaultCode Regs := do
  require (ModinfoValid r.mod r.modinv62) .modinfoInvalid
  require (ResidueOk r.d r.mod) .operandRange
  .ok { r with d := (normalize62 r.d.ints r.f.v4.toInt r.mod.ints).words }

/-- NORMALIZE (R71). -/
def execNormalize (s : State) : Host.Outcome State Fault Refusal :=
  .next (s.conclude (writesOf .normalize) (normalizeRule s.regs))

end Sys2Proof.Machine
end

