-- ==== Sys2Proof/Machine/Driver.lean ====
section
/-! DEFINITION. The driver: INIT, MODINV and MODINV_VAR (43_driver.md R96 to R109). A register file serves as the
"working copies of the registers" (R99). -/

namespace Sys2Proof.Machine

/-- INIT's rule (R98): the checks MODINFO_INVALID and OPERAND_RANGE, then d = 0, e = 1, f = M, g = x, η = −1,
ITER = 0. -/
def initRule (r : Regs) : Except FaultCode Regs := do
  require (ModinfoValid r.mod r.modinv62) .modinfoInvalid
  require (XOk r.x r.mod) .operandRange
  .ok { r with
    d := Limbs.zero
    e := Limbs.one
    f := r.mod
    g := r.x
    eta := BitVec.ofInt 64 (-1)
    iter := 0 }

/-- One driver iteration, `iterate(kind)` (R99), with `generate` the divstep command of the kind: T from the low
limbs, then (D, E) (log 18 for M = 1), then (F, G), then ITER + 1. -/
def iterateRule (generate : Regs → Except FaultCode Regs) (r : Regs) : Except FaultCode Regs := do
  let r1 ← generate r
  let r2 ← updateDeDriver r1
  let r3 ← updateFgRule r2
  .ok { r3 with iter := r3.iter + 1 }

/-- n driver iterations (R99). -/
def iterations (generate : Regs → Except FaultCode Regs) : Nat → Regs → Except FaultCode Regs
  | 0, r => .ok r
  | n + 1, r => do
    let r1 ← iterateRule generate r
    iterations generate n r1

/-- `repeat n times: iterate(CT)` (R100). -/
def ctLoop (n : Nat) (r : Regs) : Except FaultCode Regs := iterations divstepsCtRule n r

/-- The loop of R101 with at most n iterations left: iterate(VT), leave when all five limbs of G are 0, and
ITER_OVERFLOW when the last iteration ends with G ≠ 0. -/
def vtLoop : Nat → Regs → Except FaultCode Regs
  | 0, _ => .error .iterOverflow
  | n + 1, r => do
    let r1 ← iterateRule divstepsVtRule r
    if r1.g = Limbs.zero then .ok r1 else vtLoop n r1

/-- `final_ok` (R102); X is still the snapshot's x. -/
abbrev FinalOk (r : Regs) : Prop :=
  value r.g = 0 ∧
    (value r.f = 1 ∨ value r.f = -1 ∨
      (value r.x = 0 ∧ value r.d = 0 ∧ (value r.f = value r.mod ∨ value r.f = -value r.mod)))

/-- The end of both drivers (R100, R101): FINAL_STATE, which has no `precond` and so is nothing when
CHECK_INVARIANTS is false (R102, R114); then NORMALIZE with its checks; then X ← D. -/
def driverEnd (checks : Bool) (r : Regs) : Except FaultCode Regs := do
  require (checks = true → FinalOk r) .finalState
  let r1 ← normalizeRule r
  .ok { r1 with x := r1.d }

/-- MODINV's rule (R100): INIT, 12 iterations, the end. -/
def modinvRule (checks : Bool) (r : Regs) : Except FaultCode Regs := do
  let r1 ← initRule r
  let r2 ← ctLoop maxIters r1
  driverEnd checks r2

/-- MODINV_VAR's rule (R101): INIT, iterations until G = 0 and at most 12, the end. -/
def modinvVarRule (checks : Bool) (r : Regs) : Except FaultCode Regs := do
  let r1 ← initRule r
  let r2 ← vtLoop maxIters r1
  driverEnd checks r2

/-- INIT (R98). -/
def execInit (s : State) : Host.Outcome State Fault Refusal :=
  .next (s.conclude (writesOf .init) (initRule s.regs))

/-- MODINV (R100). -/
def execModinv (s : State) : Host.Outcome State Fault Refusal :=
  .next (s.conclude (writesOf .modinv) (modinvRule s.status.checks s.regs))

/-- MODINV_VAR (R101). -/
def execModinvVar (s : State) : Host.Outcome State Fault Refusal :=
  .next (s.conclude (writesOf .modinvVar) (modinvVarRule s.status.checks s.regs))

end Sys2Proof.Machine
end

