-- ==== Sys2Proof/Machine/Dispatch.lean ====
section
/-! DEFINITION. One arm per command: its meaning, the effect of the engine's `Complete` step on it (30_encoding.md
R67). -/

namespace Sys2Proof.Machine

def exec (i : Instr) (s : State) : Host.Outcome State Fault Refusal :=
  match i with
  | .init => Sys2Proof.Machine.execInit s
  | .divstepsCt => Sys2Proof.Machine.execDivstepsCt s
  | .divstepsVt => Sys2Proof.Machine.execDivstepsVt s
  | .updateDe => Sys2Proof.Machine.execUpdateDe s
  | .updateFg => Sys2Proof.Machine.execUpdateFg s
  | .normalize => Sys2Proof.Machine.execNormalize s
  | .modinv => Sys2Proof.Machine.execModinv s
  | .modinvVar => Sys2Proof.Machine.execModinvVar s

end Sys2Proof.Machine
end

