-- ==== Sys2Proof/Machine/Window.lean ====
section
/-! DEFINITION. The register window (20_memory.md R40 to R52): its map, which accesses it refuses, what a host read
returns and a host write does, idle, while a command runs and after a fault; and host addresses. -/

namespace Sys2Proof.Machine

/-- The window's size in bytes, 0x200 (R40). -/
def windowBytes : Nat := 0x200

/-- The base offset of a five-limb register (R41). -/
def limbBase : LimbReg → Nat
  | .mod => 0x080
  | .x => 0x0C0
  | .d => 0x100
  | .e => 0x140
  | .f => 0x180
  | .g => 0x1C0

/-- `off(REG)` (R41, R68): limb v[i] of a five-limb register is at its base + 8·i. -/
def regOffset : Reg → Nat
  | .eta => 0x010
  | .iter => 0x018
  | .tu => 0x020
  | .tv => 0x028
  | .tq => 0x030
  | .tr => 0x038
  | .modinv62 => 0x040
  | .limb V i => limbBase V + 8 * i.val

/-- The offset of CMD (R41). -/
def cmdOffset : Nat := 0x000

/-- The offset of STATUS (R41). -/
def statusOffset : Nat := 0x008

/-- Every register cell of the window. -/
def allRegs : List Reg :=
  [.eta, .iter, .tu, .tv, .tq, .tr, .modinv62] ++ limbCells .mod ++ limbCells .x ++ limbCells .d ++
    limbCells .e ++ limbCells .f ++ limbCells .g

/-- What an aligned offset below 0x200 names (R41); whatever the map does not name is reserved. -/
def slotAt (off : Nat) : Slot :=
  if off = cmdOffset then .cmd
  else if off = statusOffset then .status
  else match allRegs.find? (fun c => regOffset c == off) with
    | some c => .reg c
    | none => .reserved

/-- R44: the window accepts only 64-bit accesses at multiples of 8, and an offset ≥ 0x200 is outside the engine.
Which of several reasons is given is the model's choice (log 11). -/
def accessRefusal (off width : Nat) : Option Refusal :=
  if width ≠ 8 then some .accessWidth
  else if off % 8 ≠ 0 then some .misaligned
  else if windowBytes ≤ off then some .outsideWindow
  else none

/-- A register that keeps its value through a fault (R113), so that a read while faulted returns it (R49). -/
def survivesFault : Reg → Bool
  | .modinv62 => true
  | .limb .mod _ => true
  | _ => false

/-- Return a value to the host (log 3). -/
def State.answer (s : State) (v : Word) : State := { s with readData := v :: s.readData }

/-- Return an UNSPECIFIED value to the host, a new draw for each read (R48, R49, D36; log 5). -/
def State.answerUnspecified (s : State) : State :=
  { s.answer (Config.unspecified s.draws) with draws := s.draws + 1 }

/-- `Read(off)` of an admitted offset (R46 to R49). Reserved offsets and CMD read 0 and STATUS its current value, in
every state of the engine (R33, R46, D7; log 5 for CMD after a fault). A register reads UNSPECIFIED while BUSY, and
while faulted unless it survives a fault. -/
def State.hostRead (off : Nat) (s : State) : State :=
  match slotAt off with
  | .reserved => s.answer 0
  | .status => s.answer (statusWord s.status)
  | .cmd => s.answer 0
  | .reg c =>
    if s.status.busy then s.answerUnspecified
    else if s.status.fault && !survivesFault c then s.answerUnspecified
    else s.answer (s.regs.get c)

/-- A write to a slot that stores or acts: ignored while faulted (R49), dropped with BUSY_WRITE while a command runs
(R48), otherwise `effect` (R63 has the same order). -/
def State.guardedWrite (effect : State → State) (s : State) : State :=
  if s.status.fault then s
  else if s.status.busy then s.raiseFault .busyWrite
  else effect s

/-- `Write(off, v)` at an admitted offset (R46 to R49, R63). A write to a reserved offset, STATUS or ITER changes
nothing, even while BUSY. -/
def State.hostWrite (off : Nat) (v : Word) (s : State) : State :=
  match slotAt off with
  | .reserved => s
  | .status => s
  | .reg .iter => s
  | .cmd => s.guardedWrite (State.acceptCommand v)
  | .reg c => s.guardedWrite fun t => { t with regs := t.regs.set c v }

/-- The byte at byte offset k of the window as a byte-addressed host would split it (R43); not observable through
64-bit accesses. -/
def wordByte (w : Word) (k : Nat) : Byte := w.extractLsb' (8 * k) 8

/-- The window offset of a host address (R40); an address below ENGINE_BASE is outside the engine, as every offset
≥ 0x200 is (log 9). -/
def busOffset (addr : Nat) : Nat :=
  if Config.engineBase ≤ addr then addr - Config.engineBase else windowBytes

/-- `MemRead(addr, width)` (R15, R40). -/
def memRead (addr width : Nat) : Event := .read (busOffset addr) width

/-- `MemWrite(addr, width, v)` (R15, R40). -/
def memWrite (addr width : Nat) (v : Word) : Event := .write (busOffset addr) width v

end Sys2Proof.Machine
end

