-- ==== Sys2Proof/Machine/Engine.lean ====
section
/-! DEFINITION. The agents' steps (30_encoding.md R64, R67): the engine's `Complete`, the host's accesses and reset,
and which agent moves next. -/

namespace Sys2Proof.Machine

/-- The command word that is running while BUSY = 1: "The engine keeps no copy of the word except STATUS.LASTOP"
(R33), and RSV of an accepted command is 0 (R62), so LASTOP is all of it (log 7). -/
def fetchWord (s : State) : Word := s.status.lastop.zeroExtend 64

/-- `Complete` (R67), enabled when BUSY = 1: the running command's meaning. When it is not enabled, the engine's turn
passes (log 2). -/
def completeStep (s : State) : Host.Outcome State Fault Refusal :=
  if s.status.busy then
    match decode (fetchWord s) with
    | .ok i => exec i s
    | .error _ => .fault .busyWithoutCommand
  else .next s

/-- One step of an agent (R67). A refused access gets "no effect and no meaning" (R44). -/
def applyEvent (ev : Event) (s : State) : Host.Outcome State Fault Refusal :=
  match ev with
  | .read off width =>
    match accessRefusal off width with
    | some why => .refused why
    | none => .next (s.hostRead off)
  | .write off width v =>
    match accessRefusal off width with
    | some why => .refused why
    | none => .next (s.hostWrite off v)
  | .reset => .next s.resetEngine
  | .complete => completeStep s

/-- The next step: the first event of the script; when the script is empty the engine moves, so that a running
command completes (R130: "`Complete` eventually happens"), and an idle or faulted engine waits (R141; log 2). -/
def nextStep (s : State) : Host.Outcome State Fault Refusal :=
  match s.script with
  | [] => completeStep s
  | ev :: rest => applyEvent ev { s with script := rest }

/-- An engine that can take a CMD write: not busy and not faulted. -/
def State.idle (s : State) : State :=
  { s with status := { s.status with busy := false, fault := false, fcode := .none } }

/-- `s` with the command of the given bits as the next thing to run: for a command, the state after the host's CMD
write of it, with the engine's `Complete` next; for any other pattern, that CMD write itself next (log 17). -/
def State.placeCommand (s : State) (nbits w : Nat) : State :=
  let word : Word := BitVec.ofNat 64 (w % 2 ^ nbits)
  match decodeTableWord nbits w with
  | some _ => { s.idle.acceptCommand word with script := .complete :: s.script }
  | none => { s.idle with script := .write cmdOffset 8 word :: s.script }

end Sys2Proof.Machine
end

