-- ==== Sys2Proof/Machine/Step.lean ====
section
/-! DEFINITION. The step of the machine, and where a command is placed so that the next step runs it. -/

namespace Sys2Proof.Machine

/-- One step of the two agents (30_encoding.md R67). -/
def step (s : State) : Host.Outcome State Fault Refusal := nextStep s

/-- The state whose next step runs the command with the given bits (log 17). -/
def State.withFetchWord (s : State) (nbits w : Nat) : State := s.placeCommand nbits w

end Sys2Proof.Machine
end

