-- ==== Sys2Proof/Machine/DivstepsWords.lean ====
section
/-! DEFINITION. The two word-level procedures the spec gives beside the normative result: the constant-time mask
sequence (41_divsteps.md R80) and the variable-time loop (R82). Each is "one implementation of rule R77"
(93_implementation_defined.md G1, G2); that they compute it is stated, not assumed (log 12). Every operation is on
64-bit patterns modulo 2^64. -/

namespace Sys2Proof.Machine

/-- The working words of a procedure. -/
structure WordLoop where
  eta : Word
  f : Word
  g : Word
  u : Word
  v : Word
  q : Word
  r : Word
deriving DecidableEq, Repr

/-- The start of both procedures: (u, v, q, r) = (1, 0, 0, 1). -/
def WordLoop.start (eta f0 g0 : Word) : WordLoop := ⟨eta, f0, g0, 1, 0, 0, 1⟩

/-- One of the 62 passes of R80. -/
def ctPass (s : WordLoop) : WordLoop :=
  let c1 := s.eta.sshiftRight 63
  let c2 := -(s.g &&& 1#64)
  let x := (s.f ^^^ c1) - c1
  let y := (s.u ^^^ c1) - c1
  let z := (s.v ^^^ c1) - c1
  let g := s.g + (x &&& c2)
  let q := s.q + (y &&& c2)
  let r := s.r + (z &&& c2)
  let c := c1 &&& c2
  let eta := (s.eta ^^^ c) - (c + 1#64)
  let f := s.f + (g &&& c)
  let u := s.u + (q &&& c)
  let v := s.v + (r &&& c)
  ⟨eta, f, g >>> 1, u <<< 1, v <<< 1, q, r⟩

/-- n passes of R80. -/
def ctPasses : Nat → WordLoop → WordLoop
  | 0, s => s
  | n + 1, s => ctPasses n (ctPass s)

/-- The constant-time sequence of R80: (ETA, TU, TV, TQ, TR) as a WordLoop whose f and g are its working words. -/
def ctProcedure (eta f0 g0 : Word) : WordLoop := ctPasses stepsPerMatrix (WordLoop.start eta f0 g0)

/-- The number of trailing zero bits of w, at most n (R82, `ctz`). -/
def ctzUpTo : Nat → Word → Nat
  | 0, _ => 0
  | n + 1, w => if w.getLsbD 0 then 0 else ctzUpTo n (w >>> 1) + 1

/-- `ctz(w)` of a non-zero 64-bit word. -/
def ctz (w : Word) : Nat := ctzUpTo 64 w

/-- All ones, 0xFFFFFFFFFFFFFFFF. -/
def ones : Word := BitVec.allOnes 64

/-- Item 1 of R82: count the trailing zeros of g, at most i of them, shift them out, lower η by their number. -/
def vtShift (i : Nat) (s : WordLoop) : Nat × WordLoop :=
  let zeros := ctz (s.g ||| (ones <<< i))
  (i - zeros,
    { s with
      g := s.g >>> zeros
      u := s.u <<< zeros
      v := s.v <<< zeros
      eta := s.eta - BitVec.ofNat 64 zeros })

/-- `limit` (R82): min(η + 1, i). -/
def vtLimit (eta : Word) (i : Nat) : Nat := min (eta.toInt + 1).toNat i

/-- Item 2 of R82, the swap (C3): η ← −η, (f, g) ← (g, −f), (u, q) ← (q, −u), (v, r) ← (r, −v). -/
def vtSwap (s : WordLoop) : WordLoop :=
  { eta := -s.eta, f := s.g, g := -s.f, u := s.q, v := s.r, q := -s.u, r := -s.v }

/-- The multiplier w of the swapped branch (R82 item 3, k = 6), reduced to the low min(limit, 6) bits (C4). -/
def vtMultiplierSwapped (i : Nat) (s : WordLoop) : Word :=
  (s.f * s.g * (s.f * s.f - 2#64)) &&& ((ones >>> (64 - vtLimit s.eta i)) &&& 63#64)

/-- The multiplier w of the straight branch (R82 item 3, k = 4), reduced to the low min(limit, 4) bits (C4). -/
def vtMultiplierStraight (i : Nat) (s : WordLoop) : Word :=
  let t := s.f + (((s.f + 1#64) &&& 4#64) <<< 1)
  (-t * s.g) &&& ((ones >>> (64 - vtLimit s.eta i)) &&& 15#64)

/-- `g <- g + f·w; q <- q + u·w; r <- r + v·w` (R82). -/
def vtAdd (w : Word) (s : WordLoop) : WordLoop :=
  { s with g := s.g + s.f * w, q := s.q + s.u * w, r := s.r + s.v * w }

/-- The part of a pass after the exit test (R82). -/
def vtCancel (i : Nat) (s : WordLoop) : WordLoop :=
  if s.eta.toInt < 0 then
    let s1 := vtSwap s
    vtAdd (vtMultiplierSwapped i s1) s1
  else vtAdd (vtMultiplierStraight i s) s

/-- The loop of R82 with at most `fuel` passes; `i` divsteps are left. -/
def vtLoopWords : Nat → Nat → WordLoop → WordLoop
  | 0, _, s => s
  | fuel + 1, i, s =>
    let (i', s') := vtShift i s
    if i' = 0 then s' else vtLoopWords fuel i' (vtCancel i' s')

/-- The variable-time procedure of R82. "The loop makes at most 63 passes" (R84). -/
def vtProcedure (eta f0 g0 : Word) : WordLoop :=
  vtLoopWords 63 stepsPerMatrix (WordLoop.start eta f0 g0)

/-- The matrix a procedure leaves, its words reinterpreted as signed (R80, R82, last lines). -/
def WordLoop.matrix (s : WordLoop) : IntMatrix := ⟨s.u.toInt, s.v.toInt, s.q.toInt, s.r.toInt⟩

end Sys2Proof.Machine
end

