-- ==== Sys2Proof/Machine/HostScript.lean ====
section
/-! DEFINITION. The host-script notation and its pseudo-instructions (30_encoding.md R68, R69) as lists of events. -/

namespace Sys2Proof.Machine

/-- `off(REG)` (R68, R41). -/
def scriptOffset : ScriptReg → Nat
  | .cmd => cmdOffset
  | .status => statusOffset
  | .cell c => regOffset c

/-- A number of a script as a 64-bit word; a negative one is stored as two's complement (R68, R10). -/
def imm (n : Int) : Word := BitVec.ofInt 64 n

/-- `wr REG, imm`: with REG = CMD, any word, legal or not. -/
def wr (R : ScriptReg) (v : Word) : List Event := [memWrite (Config.engineBase + scriptOffset R) 8 v]

/-- `rd REG`. -/
def rd (R : ScriptReg) : List Event := [memRead (Config.engineBase + scriptOffset R) 8]

/-- `cmd MNEMONIC`: the mnemonic's word written to CMD. -/
def cmd (i : Instr) : List Event := wr .cmd (encode i)

/-- `reset`: the host's `Reset` step, no bus transaction. -/
def resetLine : List Event := [.reset]

/-- `wait`, when the engine completes after `polls` reads of STATUS that still see BUSY = 1 (R69; log 13). -/
def wait (polls : Nat) : List Event :=
  (List.replicate polls (rd .status)).flatten ++ [.complete] ++ rd .status

/-- `run MNEMONIC`: cmd, then wait. -/
def runCmd (i : Instr) (polls : Nat) : List Event := cmd i ++ wait polls

/-- `wr62 V, n`: the limbs of canon(n), v[0] first. -/
def wr62 (V : LimbReg) (n : Int) : List Event :=
  wr (.cell (.limb V 0)) (canon n).v0 ++ wr (.cell (.limb V 1)) (canon n).v1 ++
    wr (.cell (.limb V 2)) (canon n).v2 ++ wr (.cell (.limb V 3)) (canon n).v3 ++
    wr (.cell (.limb V 4)) (canon n).v4

/-- `rd62 V`: v[0] first. -/
def rd62 (V : LimbReg) : List Event :=
  rd (.cell (.limb V 0)) ++ rd (.cell (.limb V 1)) ++ rd (.cell (.limb V 2)) ++
    rd (.cell (.limb V 3)) ++ rd (.cell (.limb V 4))

/-- `clr62 V`. -/
def clr62 (V : LimbReg) : List Event := wr62 V 0

/-- `check`: the STATUS read; `checkPasses` is what the program expects of it. -/
def checkLine : List Event := rd .status

/-- What `check` expects of the STATUS word: DONE = 1 and FAULT = 0 (R69). -/
def checkPasses (w : Word) : Bool := w.getLsbD 1 && !w.getLsbD 2

end Sys2Proof.Machine
end

