-- ==== Sys2Proof/Safety.lean ====
section
/-! DEFINITION. What the statements speak of: the invariant of the engine, a host that keeps the rules of
70_reset_and_hazards.md R134, what it is for a set of registers to be left alone or UNSPECIFIED, and the premise of
43_driver.md R104. -/

namespace Sys2Proof.Machine

/-- The running command is a command (R33, R62, R63). -/
abbrev State.RunsCommand (s : State) : Prop := (decode (fetchWord s)).isOk = true

/-- The invariant of the engine:
* "At most one of BUSY, DONE and FAULT is 1 at any time" (R34);
* FCODE is 0 exactly while FAULT = 0 (R34);
* while BUSY = 1, and while DONE = 1, LASTOP is a command's OP (R62, R63);
* with CHECK_INVARIANTS false the only faults are those of the interface (R110, R114);
* with CHECK_INVARIANTS true and no fault, ITER is at most 12 (R32). -/
abbrev State.Inv (s : State) : Prop :=
  (¬(s.status.busy ∧ s.status.done) ∧ ¬(s.status.busy ∧ s.status.fault) ∧
    ¬(s.status.done ∧ s.status.fault)) ∧
  (s.status.fcode = .none ↔ s.status.fault = false) ∧
  ((s.status.busy ∨ s.status.done) → s.RunsCommand) ∧
  ((s.status.fault ∧ s.status.checks = false) →
    s.status.fcode = .illegalCmd ∨ s.status.fcode = .busyWrite) ∧
  ((s.status.fault = false ∧ s.status.checks) → s.regs.iter.toNat ≤ maxIters)

/-- An engine that takes commands: not busy, not faulted. -/
abbrev State.Ready (s : State) : Prop := s.status.busy = false ∧ s.status.fault = false

/-- A step the host may take under R134: while BUSY = 1 it only reads STATUS. The engine's turn is always allowed,
and so is reset. -/
def State.polite (s : State) : Event → Bool
  | .read off width => accessWf off width && (!s.status.busy || off == statusOffset)
  | .write off width _ => accessWf off width && !s.status.busy
  | .reset => true
  | .complete => true

/-- A safe state: the invariant holds and the engine has not faulted. -/
abbrev State.Safe (s : State) : Prop := s.Inv ∧ s.status.fault = false

/-- Every register cell outside `cells` is as before. -/
def Regs.SameOutside (cells : List Reg) (r r' : Regs) : Prop := ∀ c, c ∉ cells → r'.get c = r.get c

/-- The agents' script and the values read so far are as before. -/
abbrev State.SameSurroundings (s t : State) : Prop := t.script = s.script ∧ t.readData = s.readData

/-- `cells` hold independent UNSPECIFIED values, draws number `first` on, and every other register cell is as before
(R114, D36). -/
def Regs.UnspecifiedFrom (first : Nat) (cells : List Reg) (r r' : Regs) : Prop :=
  (∀ k (h : k < cells.length), r'.get cells[k] = Config.unspecified (first + k)) ∧
    Regs.SameOutside cells r r'

/-- `t` is `s` after `raise Fault(code)` (R113), stated field by field. -/
def State.FaultedFrom (code : FaultCode) (s t : State) : Prop :=
  t.status = { s.status with busy := false, done := false, fault := true, fcode := code } ∧
  Regs.UnspecifiedFrom s.draws faultedRegs s.regs t.regs ∧
  t.draws = s.draws + faultedRegs.length ∧ State.SameSurroundings s t

/-- `t` is `s` after a command with destinations `cells` completed with a violated precondition while
CHECK_INVARIANTS is false (R114), stated field by field. -/
def State.UnspecifiedDone (cells : List Reg) (s t : State) : Prop :=
  t.status = { s.status with busy := false, done := true } ∧
  Regs.UnspecifiedFrom s.draws cells s.regs t.regs ∧
  t.draws = s.draws + cells.length ∧ State.SameSurroundings s t

/-- What a failed check of a command leaves: its fault when CHECK_INVARIANTS is true (R112), UNSPECIFIED
destinations when it is false (R114). -/
def State.CheckFailed (code : FaultCode) (cells : List Reg) (s t : State) : Prop :=
  (s.status.checks = true → State.FaultedFrom code s t) ∧
    (s.status.checks = false → State.UnspecifiedDone cells s t)

/-- `t` is `s` after a command completed with register file `r` (R65), stated field by field. -/
def State.CompletedWith (r : Regs) (s t : State) : Prop :=
  t = { s with regs := r, status := { s.status with busy := false, done := true } }

/-- The rule of a command, with CHECK_INVARIANTS for FINAL_STATE (R102). -/
def ruleOf (checks : Bool) : Instr → Regs → Except FaultCode Regs
  | .init => initRule
  | .divstepsCt => divstepsCtRule
  | .divstepsVt => divstepsVtRule
  | .updateDe => updateDeRule
  | .updateFg => updateFgRule
  | .normalize => normalizeRule
  | .modinv => modinvRule checks
  | .modinvVar => modinvVarRule checks

/-- INIT's checks pass (R98): a valid modulus and an X in range. -/
abbrev InputsOk (r : Regs) : Prop := ModinfoValid r.mod r.modinv62 ∧ XOk r.x r.mod

/-- The premise of R104, the source's bound for this input: 744 divsteps from (−1, M, x) reach g = 0. The spec does
not derive it, so a statement that needs it takes it as a hypothesis on the operands (log 15). -/
abbrev DivstepsSuffice (r : Regs) : Prop :=
  (divsteps (maxIters * stepsPerMatrix) ⟨-1, value r.mod, value r.x⟩).g = 0

/-- The register file `r` at the driver's iteration boundary k, when INIT ran on `r0` (R103). Item 3's bound on e has
the one exception of log 18: INIT's e = 1 under the modulus 1. -/
structure DriverInv (r0 : Regs) (k : Nat) (r : Regs) : Prop where
  /-- Item 1: value(D)·x ≡ value(F) and value(E)·x ≡ value(G) (mod M). -/
  dRelation : (value r.d * value r0.x - value r.f) % value r0.mod = 0
  eRelation : (value r.e * value r0.x - value r.g) % value r0.mod = 0
  /-- Item 2: value(F) is odd, and 62·k divsteps lead from (−1, M, x) to (η, value(F), value(G)). -/
  fOdd : value r.f % 2 = 1
  triple : divsteps (stepsPerMatrix * k) ⟨-1, value r0.mod, value r0.x⟩ =
    ⟨r.eta.toInt, value r.f, value r.g⟩
  /-- Item 3: d and e in (−2M, M), all four vectors canonical. -/
  dRange : -2 * value r0.mod < value r.d ∧ value r.d < value r0.mod
  eRange : -2 * value r0.mod < value r.e ∧ (value r.e < value r0.mod ∨ (k = 0 ∧ UnitStart r))
  canonical : Canonical r.d ∧ Canonical r.e ∧ Canonical r.f ∧ Canonical r.g
  /-- Item 4: −M < value(F) ≤ M and −M < value(G) < M. -/
  fRange : -value r0.mod < value r.f ∧ value r.f ≤ value r0.mod
  gRange : -value r0.mod < value r.g ∧ value r.g < value r0.mod
  /-- ITER counts the iterations (R32), and MOD, MODINV62 and X are as INIT found them. -/
  iter : r.iter = BitVec.ofNat 64 k
  inputs : r.mod = r0.mod ∧ r.modinv62 = r0.modinv62 ∧ r.x = r0.x

/-- −value(F) when F.v[4] < 0 and value(F) otherwise. -/
def signedF (r : Regs) : Int := if r.f.v4.toInt < 0 then -value r.f else value r.f

end Sys2Proof.Machine
end

