-- ==== Sys2Proof/Certificates/Slice0/Obligations.lean ====
section
/-! DEFINITION. The statements for the provers, each with the rule of spec/ it rests on. -/

open Sys2Proof Sys2Proof.Machine

/-! ### Encoding and decoding -/

/-- R60: a word is a command exactly when it is one of the eight of the table, and decodes to that row's command. -/
def Obligations.CommandWordsAreExactlyTheTable : Prop :=
  ∀ w : Word,
    (decode w = .ok .init ↔ w = 0x0000000000000001#64) ∧
    (decode w = .ok .divstepsCt ↔ w = 0x0000000000000002#64) ∧
    (decode w = .ok .divstepsVt ↔ w = 0x0000000000000003#64) ∧
    (decode w = .ok .updateDe ↔ w = 0x0000000000000004#64) ∧
    (decode w = .ok .updateFg ↔ w = 0x0000000000000005#64) ∧
    (decode w = .ok .normalize ↔ w = 0x0000000000000006#64) ∧
    (decode w = .ok .modinv ↔ w = 0x0000000000000007#64) ∧
    (decode w = .ok .modinvVar ↔ w = 0x0000000000000008#64) ∧
    ((∃ i, decode w = .ok i) ↔ 1 ≤ w.toNat ∧ w.toNat ≤ 8)

/-- R57, R59, R60: decoding an encoded command gives it back, as a word, as table bits, and as the first eight bytes
of a longer byte list. -/
def Obligations.DecodeOfEncodeIsTheCommand : Prop :=
  ∀ i : Instr, i.wf = true ∧ decode (encode i) = .ok i ∧
    decodeTableWord 64 (encode i).toNat = some i ∧
    ∀ rest : List Byte, decodeBytes (wordBytes (encode i) ++ rest) = .ok (i, rest)

/-- R62: a word is illegal exactly when its OP is 0x00 or 0x09 to 0xFF or its RSV is not 0, and writing an illegal
word to CMD of an idle engine raises ILLEGAL_CMD whatever CHECK_INVARIANTS is. -/
def Obligations.IllegalWordsRaiseIllegalCmd : Prop :=
  ∀ w : Word,
    ((∃ why, decode w = .error why) ↔
      w.toNat % 256 = 0 ∨ 9 ≤ w.toNat % 256 ∨ w.toNat / 256 ≠ 0) ∧
    ∀ (s : State) (rest : List Event), s.Ready → s.script = .write 0x000 8 w :: rest →
      (∃ why, decode w = .error why) →
      ∃ t, step s = .next t ∧ State.FaultedFrom .illegalCmd
        { s with
          script := rest
          status := { s.status with lastop := BitVec.ofNat 8 w.toNat, done := false } } t

/-! ### The window -/

/-- R41: what each of the 64 aligned offsets of the window names. -/
def Obligations.WindowMapIsTheTable : Prop :=
  (List.range 64).map (fun k => slotAt (8 * k)) =
    [.cmd, .status, .reg .eta, .reg .iter, .reg .tu, .reg .tv, .reg .tq, .reg .tr,
     .reg .modinv62, .reserved, .reserved, .reserved, .reserved, .reserved, .reserved, .reserved,
     .reg (.limb .mod 0), .reg (.limb .mod 1), .reg (.limb .mod 2), .reg (.limb .mod 3),
     .reg (.limb .mod 4), .reserved, .reserved, .reserved,
     .reg (.limb .x 0), .reg (.limb .x 1), .reg (.limb .x 2), .reg (.limb .x 3),
     .reg (.limb .x 4), .reserved, .reserved, .reserved,
     .reg (.limb .d 0), .reg (.limb .d 1), .reg (.limb .d 2), .reg (.limb .d 3),
     .reg (.limb .d 4), .reserved, .reserved, .reserved,
     .reg (.limb .e 0), .reg (.limb .e 1), .reg (.limb .e 2), .reg (.limb .e 3),
     .reg (.limb .e 4), .reserved, .reserved, .reserved,
     .reg (.limb .f 0), .reg (.limb .f 1), .reg (.limb .f 2), .reg (.limb .f 3),
     .reg (.limb .f 4), .reserved, .reserved, .reserved,
     .reg (.limb .g 0), .reg (.limb .g 1), .reg (.limb .g 2), .reg (.limb .g 3),
     .reg (.limb .g 4), .reserved, .reserved, .reserved]

/-- R44: an access that is not 64 bits wide, or not at a multiple of 8, or at or above 0x200, is refused, and every
other access is performed. -/
def Obligations.OnlyAlignedWordAccessesAreAccepted : Prop :=
  ∀ (s : State) (rest : List Event) (off width : Nat) (v : Word),
    (s.script = .read off width :: rest ∨ s.script = .write off width v :: rest) →
    ((width ≠ 8 ∨ off % 8 ≠ 0 ∨ 0x200 ≤ off) →
      step s = .refused .accessWidth ∨ step s = .refused .misaligned ∨
        step s = .refused .outsideWindow) ∧
    (width = 8 ∧ off % 8 = 0 ∧ off < 0x200 → ∃ t, step s = .next t)

/-- R46, R33, in every state of the engine, idle, busy or faulted. That a read of CMD returns 0 after a fault too is
DEDUCED, against the letter of R49 (log 5). -/
def Obligations.IgnoredAccessesChangeNothing : Prop :=
  ∀ (s : State) (rest : List Event) (off : Nat) (v : Word),
    (off % 8 = 0 ∧ off < 0x200 ∧ slotAt off = .reserved →
      (s.script = .read off 8 :: rest →
        step s = .next { s with script := rest, readData := 0 :: s.readData }) ∧
      (s.script = .write off 8 v :: rest → step s = .next { s with script := rest })) ∧
    (s.script = .write 0x008 8 v :: rest ∨ s.script = .write 0x018 8 v :: rest →
      step s = .next { s with script := rest }) ∧
    (s.script = .read 0x000 8 :: rest →
      step s = .next { s with script := rest, readData := 0 :: s.readData })

/-- R47: while the engine is idle, a write to a register stores its full 64-bit value and does nothing else, a read
returns the value the register holds, and a read of any offset changes nothing and returns the same value when
repeated. ITER is the one register a write does not store to (R46). -/
def Obligations.IdleWritesStoreAndReadsReturn : Prop :=
  ∀ (s : State) (rest : List Event), s.Ready →
    (∀ (c : Reg) (v : Word), c ≠ .iter → s.script = .write (regOffset c) 8 v :: rest →
      ∃ t, step s = .next t ∧ t.regs.get c = v ∧ Regs.SameOutside [c] s.regs t.regs ∧
        t.status = s.status ∧ t.draws = s.draws ∧ t.script = rest ∧ t.readData = s.readData) ∧
    (∀ c : Reg, s.script = .read (regOffset c) 8 :: rest →
      step s = .next { s with script := rest, readData := s.regs.get c :: s.readData }) ∧
    (∀ off : Nat, off % 8 = 0 → off < 0x200 → s.script = .read off 8 :: .read off 8 :: rest →
      ∃ v, core.run 2 s = .next { s with script := rest, readData := v :: v :: s.readData })

/-- R48: accesses while a command runs. STATUS reads its value; reserved offsets and CMD read 0; every register reads
a free value; writes to reserved offsets, STATUS and ITER do nothing; every other write, one to CMD too, is dropped
and raises BUSY_WRITE. -/
def Obligations.AccessesWhileBusy : Prop :=
  ∀ (s : State) (rest : List Event) (off : Nat) (v : Word),
    s.status.busy = true → s.status.fault = false → off % 8 = 0 → off < 0x200 →
    (s.script = .read off 8 :: rest →
      (slotAt off = .status →
        step s = .next { s with script := rest, readData := statusWord s.status :: s.readData }) ∧
      (slotAt off = .reserved ∨ slotAt off = .cmd →
        step s = .next { s with script := rest, readData := 0 :: s.readData }) ∧
      (∀ c, slotAt off = .reg c →
        step s = .next { s with
          script := rest
          draws := s.draws + 1
          readData := Config.unspecified s.draws :: s.readData })) ∧
    (s.script = .write off 8 v :: rest →
      (slotAt off = .reserved ∨ slotAt off = .status ∨ slotAt off = .reg .iter →
        step s = .next { s with script := rest }) ∧
      (slotAt off = .cmd ∨ (∃ c, slotAt off = .reg c ∧ c ≠ .iter) →
        ∃ t, step s = .next t ∧ State.FaultedFrom .busyWrite { s with script := rest } t))

/-- R49: accesses after a fault. STATUS, MOD and MODINV62 read their values; every other register reads a free value,
but CMD, which holds none and reads 0 (R33, log 5); no write changes anything, so none raises a fault; and only reset
leaves the state. -/
def Obligations.AccessesAfterAFault : Prop :=
  ∀ (s : State) (rest : List Event), s.status.fault = true → s.status.busy = false →
    (s.script = .read 0x008 8 :: rest →
      step s = .next { s with script := rest, readData := statusWord s.status :: s.readData }) ∧
    (∀ c, (c = .modinv62 ∨ ∃ i, c = .limb .mod i) → s.script = .read (regOffset c) 8 :: rest →
      step s = .next { s with script := rest, readData := s.regs.get c :: s.readData }) ∧
    (s.script = .read 0x000 8 :: rest →
      step s = .next { s with script := rest, readData := 0 :: s.readData }) ∧
    (∀ c, c ≠ .modinv62 → (∀ i, c ≠ .limb .mod i) → s.script = .read (regOffset c) 8 :: rest →
      step s = .next { s with
        script := rest
        draws := s.draws + 1
        readData := Config.unspecified s.draws :: s.readData }) ∧
    (∀ off v, off % 8 = 0 → off < 0x200 → s.script = .write off 8 v :: rest →
      step s = .next { s with script := rest }) ∧
    (∀ ev t, ev ≠ .reset → s.script = ev :: rest → step s = .next t →
      t.status.fault = true ∧ t.status.fcode = s.status.fcode)

/-! ### STATUS, acceptance, completion, faults -/

/-- R34, R110: the fields of the word STATUS reads as, its reserved bits 0, and the fault codes' numbers. -/
def Obligations.StatusWordLayout : Prop :=
  (∀ st : Status,
    (statusWord st).getLsbD 0 = st.busy ∧ (statusWord st).getLsbD 1 = st.done ∧
    (statusWord st).getLsbD 2 = st.fault ∧ (statusWord st).extractLsb' 3 5 = 0 ∧
    (statusWord st).extractLsb' 8 8 = st.fcode.code ∧
    (statusWord st).extractLsb' 16 8 = st.lastop ∧
    (statusWord st).getLsbD 24 = st.checks ∧ (statusWord st).extractLsb' 25 39 = 0) ∧
  [FaultCode.none, .illegalCmd, .busyWrite, .modinfoInvalid, .operandRange, .tBound, .tDet, .fEven,
    .etaRange, .lowlimbNonzero, .iterOverflow, .finalState].map FaultCode.code =
    [0x00, 0x01, 0x02, 0x03, 0x04, 0x05, 0x06, 0x07, 0x08, 0x09, 0x0A, 0x0B]

/-- R63: a host write to CMD is ignored after a fault, raises BUSY_WRITE while a command runs, and otherwise records
OP, clears DONE, and sets BUSY for a command (with every register as it was: the snapshot) or raises ILLEGAL_CMD. -/
def Obligations.AcceptanceOfACommandWord : Prop :=
  ∀ (s : State) (rest : List Event) (w : Word), s.script = .write 0x000 8 w :: rest →
    (s.status.fault = true → step s = .next { s with script := rest }) ∧
    (s.status.fault = false → s.status.busy = true →
      ∃ t, step s = .next t ∧ State.FaultedFrom .busyWrite { s with script := rest } t) ∧
    (s.Ready → ∀ i, decode w = .ok i →
      step s = .next { s with
        script := rest
        status := { s.status with
          lastop := BitVec.ofNat 8 w.toNat, done := false, busy := true } }) ∧
    (s.Ready → ∀ why, decode w = .error why →
      ∃ t, step s = .next t ∧ State.FaultedFrom .illegalCmd
        { s with
          script := rest
          status := { s.status with lastop := BitVec.ofNat 8 w.toNat, done := false } } t)

/-- R64, R65, R112: every command ends. It completes with DONE = 1 and no fault, or, only when CHECK_INVARIANTS is
true, it faults with the code of a command's check; LASTOP and CHECKS are kept. -/
def Obligations.EveryCommandCompletesOrFaults : Prop :=
  ∀ (i : Instr) (s : State), ∃ t, exec i s = .next t ∧
    t.status.busy = false ∧ t.status.lastop = s.status.lastop ∧ t.status.checks = s.status.checks ∧
    State.SameSurroundings s t ∧
    ((t.status.done = true ∧ t.status.fault = s.status.fault ∧ t.status.fcode = s.status.fcode) ∨
      (s.status.checks = true ∧ t.status.done = false ∧ t.status.fault = true ∧
        t.status.fcode ∉ [FaultCode.none, .illegalCmd, .busyWrite]))

/-- R112, R113, R115: what raising a fault does; MOD and MODINV62 are the registers that survive it, and the engine's
turn then passes, so an interrupted command does not complete. -/
def Obligations.RaisingAFault : Prop :=
  ∀ (code : FaultCode) (s : State),
    State.FaultedFrom code s (s.raiseFault code) ∧
    (∀ c, c ∉ faultedRegs ↔ c = .modinv62 ∨ ∃ i, c = .limb .mod i) ∧
    (s.raiseFault code).regs.mod = s.regs.mod ∧
    (s.raiseFault code).regs.modinv62 = s.regs.modinv62 ∧
    completeStep (s.raiseFault code) = .next (s.raiseFault code)

/-- R114: with CHECK_INVARIANTS false no check raises a fault, every command completes, a command one of whose
preconditions fails leaves each of its destination registers an independent free value, and no register outside the
command's destinations changes. -/
def Obligations.ReleaseCommandsAlwaysComplete : Prop :=
  ∀ (i : Instr) (s : State), s.status.checks = false →
    ∃ t, exec i s = .next t ∧
      t.status = { s.status with busy := false, done := true } ∧
      Regs.SameOutside (writesOf i) s.regs t.regs ∧
      ((∃ code, ruleOf false i s.regs = .error code) → State.UnspecifiedDone (writesOf i) s t)

/-- R118: a fault lasts until reset, which clears FAULT and FCODE; until then no step raises another and FCODE keeps
the first code. In every state that meets the engine's invariant. -/
def Obligations.FaultLastsUntilReset : Prop :=
  ∀ s t : State, s.Inv → s.status.fault = true → step s = .next t →
    ((∃ rest, s.script = .reset :: rest) → t.status.fault = false ∧ t.status.fcode = .none) ∧
    ((∀ rest, s.script ≠ .reset :: rest) →
      t.status.fault = true ∧ t.status.fcode = s.status.fcode ∧ t.status.busy = false)

/-! ### Reset -/

/-- R39: what every register and STATUS hold after reset. -/
def Obligations.ResetValues : Prop :=
  (∀ c, State.reset.regs.get c = 0) ∧
    State.reset.status.busy = false ∧ State.reset.status.done = false ∧
    State.reset.status.fault = false ∧ State.reset.status.fcode = .none ∧
    State.reset.status.lastop = 0 ∧ State.reset.status.checks = Config.checkInvariants

/-- R127: reset at any time, in any state, abandons a running command and sets every register and STATUS to its reset
value; CHECKS, hardwired to the parameter, is kept. That the draws, the script and the values read are kept is the
model's choice (log 10). -/
def Obligations.ResetFromAnyState : Prop :=
  ∀ (s : State) (rest : List Event), s.script = .reset :: rest →
    ∃ t, step s = .next t ∧ (∀ c, t.regs.get c = 0) ∧
      t.status.busy = false ∧ t.status.done = false ∧ t.status.fault = false ∧
      t.status.fcode = .none ∧ t.status.lastop = 0 ∧ t.status.checks = s.status.checks ∧
      t.draws = s.draws ∧ t.script = rest ∧ t.readData = s.readData

/-- R128: a command run on the reset values of the registers fails its first check: MODINFO_INVALID for the five that
check the modulus, F_EVEN for the two divstep commands, T_DET for UPDATE_FG; with CHECK_INVARIANTS false its
destinations are free values. And the engine is idle after reset. -/
def Obligations.CommandsRightAfterReset : Prop :=
  State.reset.Ready ∧ State.reset.status.done = false ∧
  ∀ s : State, s.regs = Regs.reset →
    (∀ i ∈ [Instr.init, .updateDe, .normalize, .modinv, .modinvVar],
      ∃ t, exec i s = .next t ∧ State.CheckFailed .modinfoInvalid (writesOf i) s t) ∧
    (∀ i ∈ [Instr.divstepsCt, .divstepsVt],
      ∃ t, exec i s = .next t ∧ State.CheckFailed .fEven (writesOf i) s t) ∧
    (∃ t, exec .updateFg s = .next t ∧ State.CheckFailed .tDet (writesOf .updateFg) s t)

/-! ### The machine as a whole -/

/-- R67: when the engine's turn comes while a command runs, by the script or because the script is empty, the step is
that command's meaning, the turn taken off the script. -/
def Obligations.StepRunsTheDecodedCommand : Prop :=
  ∀ (s : State) (i : Instr), s.status.busy = true → decode (fetchWord s) = .ok i →
    (s.script = [] → step s = exec i s) ∧
    (∀ rest, s.script = .complete :: rest → step s = exec i { s with script := rest })

/-- R34, R32, R110: the invariant holds after reset. -/
def Obligations.ResetMeetsTheInvariant : Prop := State.reset.Inv

/-- R34, R32, R62, R63, R110, R114: every step of either agent keeps the engine's invariant: at most one of BUSY,
DONE and FAULT; FCODE 0 exactly while FAULT = 0; LASTOP a command's OP while BUSY or DONE; no fault of a check with
CHECK_INVARIANTS false; ITER at most 12 with it true and no fault. -/
def Obligations.EveryStepKeepsTheInvariant : Prop :=
  ∀ s t : State, s.Inv → step s = .next t → t.Inv

/-- R34, R44, R64: in a state that meets the invariant the machine goes on, unless the next event is an access the
window refuses; and no step, whoever takes it, changes CHECKS. -/
def Obligations.MachineGoesOn : Prop :=
  ∀ s : State, s.Inv →
    (∀ ev rest, s.script = ev :: rest → ev.wf = true) →
    ∃ t, step s = .next t ∧ t.status.checks = s.status.checks

/-- R25, R26, R113, R115: only a host write to one of its cells, or reset, changes MOD or MODINV62: no command does,
and no fault. -/
def Obligations.OnlyTheHostWritesTheModulus : Prop :=
  ∀ s t : State, step s = .next t → (∀ rest, s.script ≠ .reset :: rest) →
    (∀ off width v rest c, s.script = .write off width v :: rest → slotAt off = .reg c →
      c ≠ .modinv62 ∧ ∀ i, c ≠ .limb .mod i) →
    t.regs.mod = s.regs.mod ∧ t.regs.modinv62 = s.regs.modinv62

/-- R55, R63: while a command runs, a host access other than reset changes neither the registers nor STATUS, unless
it is a write that raises BUSY_WRITE; so the command computes from the values at its acceptance (log 6). -/
def Obligations.RegistersHoldStillWhileBusy : Prop :=
  ∀ (s t : State) (ev : Event) (rest : List Event), s.Inv → s.status.busy = true →
    s.script = ev :: rest → ev ≠ .reset → ev ≠ .complete → step s = .next t →
    (t.regs = s.regs ∧ t.status = s.status) ∨
      (∃ off v, ev = .write off 8 v ∧ State.FaultedFrom .busyWrite { s with script := rest } t)

/-- R134: a host that writes no register while a command runs never causes BUSY_WRITE, whatever the engine does. -/
def Obligations.PoliteHostNeverFaultsOnAWrite : Prop :=
  ∀ s t : State, (∀ ev rest, s.script = ev :: rest → s.polite ev = true) → step s = .next t →
    s.status.fcode ≠ .busyWrite → t.status.fcode ≠ .busyWrite

/-- R130, R64: a running command completes: when the host only polls STATUS, the engine is no longer busy after one
step more than the polls. That the engine moves when the script is empty is the model's choice (log 2). -/
def Obligations.RunningCommandCompletesUnderPolling : Prop :=
  ∀ s : State, s.Inv → s.status.busy = true → (∀ ev ∈ s.script, ev = .read 0x008 8) →
    ∃ t, core.run (s.script.length + 1) s = .next t ∧ t.status.busy = false ∧
      (t.status.done = true ∨ t.status.fault = true) ∧
      t.readData = List.replicate s.script.length (statusWord s.status) ++ s.readData

/-- 95_test_vectors.md P8, from R48 and R67: a register write that races the completion of a command has two
outcomes: after the completion it stores (when the command did not fault), before it it raises BUSY_WRITE. -/
def Obligations.RacingWriteHasTwoOutcomes : Prop :=
  ∀ (s : State) (i : Instr) (c : Reg) (v : Word) (rest : List Event), s.Inv → s.status.busy = true →
    decode (fetchWord s) = .ok i → c ≠ .iter →
    (s.script = .complete :: .write (regOffset c) 8 v :: rest →
      ∀ t, exec i { s with script := rest } = .next t → t.status.fault = false →
        core.run 2 s = .next { t with regs := t.regs.set c v }) ∧
    (s.script = .write (regOffset c) 8 v :: .complete :: rest →
      ∃ t, core.run 2 s = .next t ∧ State.FaultedFrom .busyWrite { s with script := rest } t)

/-! ### Frames -/

/-- R61, R66: INIT and the divstep commands, when they do not fault, change no register but their destinations, no
STATUS bit but BUSY and DONE, and neither the script nor the values read. -/
def Obligations.FrameOfInitAndDivsteps : Prop :=
  ∀ s t : State, t.status.fault = false →
    (exec .init s = .next t →
      t.regs = { s.regs with
        d := t.regs.d, e := t.regs.e, f := t.regs.f, g := t.regs.g
        eta := t.regs.eta, iter := t.regs.iter } ∧
      t.status = { s.status with busy := false, done := true } ∧ State.SameSurroundings s t) ∧
    (exec .divstepsCt s = .next t ∨ exec .divstepsVt s = .next t →
      t.regs = { s.regs with
        eta := t.regs.eta, tu := t.regs.tu, tv := t.regs.tv, tq := t.regs.tq, tr := t.regs.tr } ∧
      t.status = { s.status with busy := false, done := true } ∧ State.SameSurroundings s t)

/-- R61, R66: UPDATE_DE, UPDATE_FG and NORMALIZE, when they do not fault, change no register but D and E, F and G,
and D, no STATUS bit but BUSY and DONE, and neither the script nor the values read. -/
def Obligations.FrameOfUpdatesAndNormalize : Prop :=
  ∀ s t : State, t.status.fault = false →
    (exec .updateDe s = .next t →
      t.regs = { s.regs with d := t.regs.d, e := t.regs.e } ∧
      t.status = { s.status with busy := false, done := true } ∧ State.SameSurroundings s t) ∧
    (exec .updateFg s = .next t →
      t.regs = { s.regs with f := t.regs.f, g := t.regs.g } ∧
      t.status = { s.status with busy := false, done := true } ∧ State.SameSurroundings s t) ∧
    (exec .normalize s = .next t →
      t.regs = { s.regs with d := t.regs.d } ∧
      t.status = { s.status with busy := false, done := true } ∧ State.SameSurroundings s t)

/-- R61, R66: MODINV and MODINV_VAR, when they do not fault, keep MOD and MODINV62, the only registers that are no
destinations of theirs, every STATUS bit but BUSY and DONE, the script and the values read. -/
def Obligations.FrameOfDrivers : Prop :=
  ∀ s t : State, t.status.fault = false → exec .modinv s = .next t ∨ exec .modinvVar s = .next t →
    t.regs.mod = s.regs.mod ∧ t.regs.modinv62 = s.regs.modinv62 ∧
    t.status = { s.status with busy := false, done := true } ∧ State.SameSurroundings s t

/-- R61, R67: a command's result, its destinations and what STATUS then says, depends on the registers it reads,
on STATUS and on the free values, and on no other register. -/
def Obligations.ResultDependsOnlyOnReads : Prop :=
  ∀ (i : Instr) (s s' t t' : State), s.status = s'.status → s.draws = s'.draws →
    (∀ c ∈ readsOf i, s.regs.get c = s'.regs.get c) →
    exec i s = .next t → exec i s' = .next t' →
    t.status = t'.status ∧ t.draws = t'.draws ∧ ∀ c ∈ writesOf i, t.regs.get c = t'.regs.get c

/-- R26: bits 63..62 of MODINV62 are ignored by every command. -/
def Obligations.TopBitsOfModinv62AreIgnored : Prop :=
  ∀ (i : Instr) (s t : State) (w : Word),
    w.toNat % 2 ^ 62 = s.regs.modinv62.toNat % 2 ^ 62 → exec i s = .next t →
    exec i { s with regs := { s.regs with modinv62 := w } } =
      .next { t with regs := { t.regs with modinv62 := w } }

/-! ### Numbers -/

/-- R17: what canonical and fully normalized mean, limb by limb; canon(n) is canonical and has value n, and it is the
only canonical vector of that value. -/
def Obligations.CanonIsTheCanonicalVector : Prop :=
  (∀ V : Limbs,
    (Canonical V ↔ ∀ w ∈ [V.v0, V.v1, V.v2, V.v3], 0 ≤ w.toInt ∧ w.toInt < 2 ^ 62) ∧
    (Normalized V ↔ Canonical V ∧ 0 ≤ V.v4.toInt)) ∧
  (∀ n : Int, -2 ^ 311 ≤ n → n < 2 ^ 311 → Canonical (canon n) ∧ value (canon n) = n) ∧
    (∀ V : Limbs, Canonical V → canon (value V) = V ∧ -2 ^ 311 ≤ value V ∧ value V < 2 ^ 311)

/-- R16, R24: the value of five limbs is the sum of v[i]·2^(62·i), and every canonical vector is sign-consistent. -/
def Obligations.CanonicalVectorsAreSignConsistent : Prop :=
  ∀ V : Limbs,
    value V = V.v0.toInt + V.v1.toInt * 2 ^ 62 + V.v2.toInt * 2 ^ 124 + V.v3.toInt * 2 ^ 186 +
      V.v4.toInt * 2 ^ 248 ∧
    (Canonical V → (value V < 0 ↔ V.v4.toInt < 0))

/-! ### INIT -/

/-- R98: INIT's word, its result when its checks pass, and what it leaves when MODINFO_INVALID, then OPERAND_RANGE,
fails. -/
def Obligations.InitResult : Prop :=
  decode 0x0000000000000001#64 = .ok .init ∧ ∀ s : State,
    (InputsOk s.regs →
      ∃ t, exec .init s = .next t ∧ State.CompletedWith
        { s.regs with
          d := ⟨0, 0, 0, 0, 0⟩, e := ⟨1, 0, 0, 0, 0⟩, f := s.regs.mod, g := s.regs.x
          eta := -1, iter := 0 } s t) ∧
    (¬ModinfoValid s.regs.mod s.regs.modinv62 →
      ∃ t, exec .init s = .next t ∧ State.CheckFailed .modinfoInvalid (writesOf .init) s t) ∧
    (ModinfoValid s.regs.mod s.regs.modinv62 → ¬XOk s.regs.x s.regs.mod →
      ∃ t, exec .init s = .next t ∧ State.CheckFailed .operandRange (writesOf .init) s t)

/-! ### The divstep commands -/

/-- R76: the three cases of a divstep with F odd; the divisions are exact and the new F is odd. -/
def Obligations.DivstepCases : Prop :=
  ∀ t : DivTriple, t.f % 2 = 1 →
    (t.eta < 0 → t.g % 2 = 1 →
      (divstep t).eta = -t.eta - 1 ∧ (divstep t).f = t.g ∧ 2 * (divstep t).g = t.g - t.f) ∧
    (0 ≤ t.eta → t.g % 2 = 1 →
      (divstep t).eta = t.eta - 1 ∧ (divstep t).f = t.f ∧ 2 * (divstep t).g = t.g + t.f) ∧
    (t.g % 2 = 0 →
      (divstep t).eta = t.eta - 1 ∧ (divstep t).f = t.f ∧ 2 * (divstep t).g = t.g) ∧
    (divstep t).f % 2 = 1

/-- R77, R79: with F.v[0] odd and every η_k for k in 0..62 in [−745, 745], both divstep commands write η₆₂ and T₆₂;
F.v[0] even fails F_EVEN, checked first; an η_k out of range fails ETA_RANGE. -/
def Obligations.DivstepCommandsResult : Prop :=
  ∀ (s : State) (i : Instr), (i = .divstepsCt ∨ i = .divstepsVt) →
    (s.regs.f.v0.toNat % 2 = 1 →
      (∀ k ≤ 62, -745 ≤ (divsteps k (wordTriple s.regs.eta s.regs.f.v0 s.regs.g.v0)).eta ∧
        (divsteps k (wordTriple s.regs.eta s.regs.f.v0 s.regs.g.v0)).eta ≤ 745) →
      ∃ t, exec i s = .next t ∧ State.CompletedWith
        (s.regs.setDivsteps (divsteps62 s.regs.eta s.regs.f.v0 s.regs.g.v0)) s t ∧
        t.regs.eta.toInt = (divsteps62 s.regs.eta s.regs.f.v0 s.regs.g.v0).1 ∧
        t.regs.matrix = (divsteps62 s.regs.eta s.regs.f.v0 s.regs.g.v0).2) ∧
    (s.regs.f.v0.toNat % 2 = 0 →
      ∃ t, exec i s = .next t ∧ State.CheckFailed .fEven (writesOf i) s t) ∧
    (s.regs.f.v0.toNat % 2 = 1 →
      (∃ k ≤ 62, (divsteps k (wordTriple s.regs.eta s.regs.f.v0 s.regs.g.v0)).eta < -745 ∨
        745 < (divsteps k (wordTriple s.regs.eta s.regs.f.v0 s.regs.g.v0)).eta) →
      ∃ t, exec i s = .next t ∧ State.CheckFailed .etaRange (writesOf i) s t)

/-- R78: the five properties of divsteps62 for f0 odd: determinant 2^62; row sums at most 2^62; only f0 and g0 modulo
2^62 matter; T / 2^62 carries any F ≡ f0, G ≡ g0 (mod 2^62) with F odd through 62 divsteps, exactly; |η| grows by at
most 1 a divstep, so by at most 62. -/
def Obligations.Divsteps62Properties : Prop :=
  ∀ eta f0 g0 : Word, f0.toNat % 2 = 1 →
    (divsteps62 eta f0 g0).2.det = 2 ^ 62 ∧
    ((divsteps62 eta f0 g0).2.u.natAbs + (divsteps62 eta f0 g0).2.v.natAbs ≤ 2 ^ 62 ∧
      (divsteps62 eta f0 g0).2.q.natAbs + (divsteps62 eta f0 g0).2.r.natAbs ≤ 2 ^ 62) ∧
    (∀ f0' g0' : Word, f0'.toNat % 2 ^ 62 = f0.toNat % 2 ^ 62 → g0'.toNat % 2 ^ 62 = g0.toNat % 2 ^ 62 →
      divsteps62 eta f0' g0' = divsteps62 eta f0 g0) ∧
    (∀ F G : Int, F % 2 ^ 62 = (f0.toNat : Int) % 2 ^ 62 → G % 2 ^ 62 = (g0.toNat : Int) % 2 ^ 62 →
      (divsteps 62 ⟨eta.toInt, F, G⟩).eta = (divsteps62 eta f0 g0).1 ∧
      2 ^ 62 * (divsteps 62 ⟨eta.toInt, F, G⟩).f =
        (divsteps62 eta f0 g0).2.u * F + (divsteps62 eta f0 g0).2.v * G ∧
      2 ^ 62 * (divsteps 62 ⟨eta.toInt, F, G⟩).g =
        (divsteps62 eta f0 g0).2.q * F + (divsteps62 eta f0 g0).2.r * G) ∧
    (∀ t : DivTriple, (divstep t).eta.natAbs ≤ t.eta.natAbs + 1) ∧
    (divsteps62 eta f0 g0).1.natAbs ≤ eta.toInt.natAbs + 62

/-- R80: the constant-time word sequence computes divsteps62, for f0 odd and η in [−745, 745]. -/
def Obligations.CtProcedureComputesDivsteps62 : Prop :=
  ∀ eta f0 g0 : Word, f0.toNat % 2 = 1 → -745 ≤ eta.toInt → eta.toInt ≤ 745 →
    (ctProcedure eta f0 g0).eta.toInt = (divsteps62 eta f0 g0).1 ∧
      (ctProcedure eta f0 g0).matrix = (divsteps62 eta f0 g0).2

/-- R82, R83, R84: the variable-time loop computes divsteps62, for f0 odd and η in [−745, 745], and 63 passes are
enough for it. -/
def Obligations.VtProcedureComputesDivsteps62 : Prop :=
  ∀ eta f0 g0 : Word, f0.toNat % 2 = 1 → -745 ≤ eta.toInt → eta.toInt ≤ 745 →
    (vtProcedure eta f0 g0).eta.toInt = (divsteps62 eta f0 g0).1 ∧
      (vtProcedure eta f0 g0).matrix = (divsteps62 eta f0 g0).2 ∧
      ∀ n, vtLoopWords (63 + n) 62 (WordLoop.start eta f0 g0) = vtProcedure eta f0 g0

/-! ### NORMALIZE -/

/-- R74: when its checks pass, NORMALIZE leaves D fully normalized with value (s·value(D)) mod M, in [0, M), where s
is −1 when F.v[4] is negative and 1 otherwise. -/
def Obligations.NormalizeResult : Prop :=
  ∀ s : State, ModinfoValid s.regs.mod s.regs.modinv62 → ResidueOk s.regs.d s.regs.mod →
    ∃ t, exec .normalize s = .next t ∧
      State.CompletedWith { s.regs with d := t.regs.d } s t ∧
      value t.regs.d =
        (if s.regs.f.v4.toInt < 0 then -value s.regs.d else value s.regs.d) % value s.regs.mod ∧
      Normalized t.regs.d ∧ 0 ≤ value t.regs.d ∧ value t.regs.d < value s.regs.mod

/-- R71, R72: NORMALIZE's checks, MODINFO_INVALID first. -/
def Obligations.NormalizeChecks : Prop :=
  ∀ s : State,
    (¬ModinfoValid s.regs.mod s.regs.modinv62 →
      ∃ t, exec .normalize s = .next t ∧
        State.CheckFailed .modinfoInvalid (writesOf .normalize) s t) ∧
    (ModinfoValid s.regs.mod s.regs.modinv62 → ¬ResidueOk s.regs.d s.regs.mod →
      ∃ t, exec .normalize s = .next t ∧
        State.CheckFailed .operandRange (writesOf .normalize) s t)

/-- R73: with the checks passed, no limb leaves the signed 64-bit range in any of NORMALIZE's five steps, nor in the
partial sums of its carries. -/
def Obligations.NormalizeStaysInSixtyFourBits : Prop :=
  ∀ (D M : Limbs) (inv sign : Word), ModinfoValid M inv → ResidueOk D M →
    let r1 := addMasked D.ints M.ints (signMask D.v4.toInt)
    let r2 := negMasked r1 (signMask sign.toInt)
    let r3 := propagate r2
    let r4 := addMasked r3 M.ints (signMask r3.v4)
    let r5 := propagate r4
    let fits : Int → Prop := fun n => -2 ^ 63 ≤ n ∧ n < 2 ^ 63
    let allFit : IntLimbs → Prop := fun r => fits r.v0 ∧ fits r.v1 ∧ fits r.v2 ∧ fits r.v3 ∧ fits r.v4
    let sumsFit : IntLimbs → Prop := fun r =>
      fits (r.v1 + sar62 r.v0) ∧ fits (r.v2 + sar62 (r.v1 + sar62 r.v0)) ∧
      fits (r.v3 + sar62 (r.v2 + sar62 (r.v1 + sar62 r.v0)))
    allFit r1 ∧ allFit r2 ∧ sumsFit r2 ∧ allFit r3 ∧ allFit r4 ∧ sumsFit r4 ∧ allFit r5 ∧
      normalize62 D.ints sign.toInt M.ints = r5

/-! ### The matrix updates -/

/-- R88: when its checks pass, UPDATE_DE leaves D and E canonical, in (−2M, M), with
value(D′)·2^62 = u·d + v·e + M·md exactly and likewise for E, so congruent to the row of T applied, divided by 2^62,
modulo M. -/
def Obligations.UpdateDeResult : Prop :=
  ∀ s : State, ModinfoValid s.regs.mod s.regs.modinv62 → TBoundOk s.regs.matrix →
    s.regs.matrix.det = 2 ^ 62 → ResidueOk s.regs.d s.regs.mod → ResidueOk s.regs.e s.regs.mod →
    let T := s.regs.matrix
    let md := correction T.u T.v s.regs.d.ints s.regs.e.ints s.regs.modinv62.toNat
    let me := correction T.q T.r s.regs.d.ints s.regs.e.ints s.regs.modinv62.toNat
    ∃ t, exec .updateDe s = .next t ∧
      State.CompletedWith { s.regs with d := t.regs.d, e := t.regs.e } s t ∧
      (value t.regs.d * 2 ^ 62 =
          T.u * value s.regs.d + T.v * value s.regs.e + value s.regs.mod * md ∧
        value t.regs.e * 2 ^ 62 =
          T.q * value s.regs.d + T.r * value s.regs.e + value s.regs.mod * me) ∧
      ((value t.regs.d * 2 ^ 62) % value s.regs.mod =
          (T.u * value s.regs.d + T.v * value s.regs.e) % value s.regs.mod ∧
        (value t.regs.e * 2 ^ 62) % value s.regs.mod =
          (T.q * value s.regs.d + T.r * value s.regs.e) % value s.regs.mod) ∧
      (-2 * value s.regs.mod < value t.regs.d ∧ value t.regs.d < value s.regs.mod ∧
        -2 * value s.regs.mod < value t.regs.e ∧ value t.regs.e < value s.regs.mod) ∧
      Canonical t.regs.d ∧ Canonical t.regs.e

/-- R87, R111: UPDATE_DE's checks in order: MODINFO_INVALID, T_BOUND, T_DET, OPERAND_RANGE; and LOWLIMB_NONZERO
cannot fail once they pass. -/
def Obligations.UpdateDeChecks : Prop :=
  ∀ s : State,
    let ok1 := ModinfoValid s.regs.mod s.regs.modinv62
    let ok2 := TBoundOk s.regs.matrix
    let ok3 := s.regs.matrix.det = 2 ^ 62
    let ok4 := ResidueOk s.regs.d s.regs.mod ∧ ResidueOk s.regs.e s.regs.mod
    let fails := fun code => ∃ t, exec .updateDe s = .next t ∧
      State.CheckFailed code (writesOf .updateDe) s t
    (¬ok1 → fails .modinfoInvalid) ∧ (ok1 → ¬ok2 → fails .tBound) ∧ (ok1 → ok2 → ¬ok3 → fails .tDet) ∧
      (ok1 → ok2 → ok3 → ¬ok4 → fails .operandRange) ∧
      (ok1 → ∀ a b : Int,
        low62 (deRow a b s.regs.d.ints s.regs.e.ints s.regs.mod.ints s.regs.modinv62.toNat).v0 = 0)

/-- R89: the ranges of UPDATE_DE's corrections, products, accumulators and last carry, for a row (a, b) of a matrix
within bounds: the products with d and e are below 2^124, those with the modulus below 2^125, and every accumulator
below 2^126, so within signed 128 bits. -/
def Obligations.UpdateDeStaysInAccumulator : Prop :=
  ∀ (D E M : Limbs) (inv : Word) (a b : Int), ModinfoValid M inv → ResidueOk D M → ResidueOk E M →
    (a.natAbs : Int) + b.natAbs ≤ 2 ^ 62 →
    let md0 := correctionStart a b D.ints E.ints
    let md := correction a b D.ints E.ints inv.toNat
    let row := deRow a b D.ints E.ints M.ints inv.toNat
    let c0 := row.v0
    let c1 := row.v1 + sar62 c0
    let c2 := row.v2 + sar62 c1
    let c3 := row.v3 + sar62 c2
    let c4 := row.v4 + sar62 c3
    let small : Int → Prop := fun n => -2 ^ 126 < n ∧ n < 2 ^ 126
    let products : Int → Int → Int → Prop := fun d e m =>
      (a * d).natAbs < 2 ^ 124 ∧ (b * e).natAbs < 2 ^ 124 ∧ (m * md).natAbs < 2 ^ 125
    (-2 ^ 62 ≤ md0 ∧ md0 ≤ 2 ^ 62) ∧ (-2 ^ 63 + 1 ≤ md ∧ md ≤ 2 ^ 62) ∧
      products D.ints.v0 E.ints.v0 M.ints.v0 ∧ products D.ints.v1 E.ints.v1 M.ints.v1 ∧
      products D.ints.v2 E.ints.v2 M.ints.v2 ∧ products D.ints.v3 E.ints.v3 M.ints.v3 ∧
      products D.ints.v4 E.ints.v4 M.ints.v4 ∧
      small c0 ∧ small c1 ∧ small c2 ∧ small c3 ∧ small c4 ∧
      (-2 ^ 9 ≤ sar62 c4 ∧ sar62 c4 < 2 ^ 8)

/-- R94: when its checks pass, UPDATE_FG divides T·(f, g) by 2^62 exactly and leaves F and G canonical; and when T is
the matrix of 62 divsteps from the low limbs of F and G with F odd, that is 62 divsteps on the whole values. -/
def Obligations.UpdateFgResult : Prop :=
  ∀ s : State, TBoundOk s.regs.matrix → s.regs.matrix.det = 2 ^ 62 →
    LimbsBounded s.regs.f → LimbsBounded s.regs.g →
    let T := s.regs.matrix
    (T.u * s.regs.f.v0.toInt + T.v * s.regs.g.v0.toInt) % 2 ^ 62 = 0 →
    (T.q * s.regs.f.v0.toInt + T.r * s.regs.g.v0.toInt) % 2 ^ 62 = 0 →
    ∃ t, exec .updateFg s = .next t ∧
      State.CompletedWith { s.regs with f := t.regs.f, g := t.regs.g } s t ∧
      value t.regs.f * 2 ^ 62 = T.u * value s.regs.f + T.v * value s.regs.g ∧
      value t.regs.g * 2 ^ 62 = T.q * value s.regs.f + T.r * value s.regs.g ∧
      Canonical t.regs.f ∧ Canonical t.regs.g ∧
      (∀ eta : Word, s.regs.f.v0.toNat % 2 = 1 →
        (divsteps62 eta s.regs.f.v0 s.regs.g.v0).2 = T →
        (divsteps 62 ⟨eta.toInt, value s.regs.f, value s.regs.g⟩).f = value t.regs.f ∧
        (divsteps 62 ⟨eta.toInt, value s.regs.f, value s.regs.g⟩).g = value t.regs.g)

/-- R93, R111: UPDATE_FG's checks in order: T_BOUND, T_DET, OPERAND_RANGE, LOWLIMB_NONZERO. -/
def Obligations.UpdateFgChecks : Prop :=
  ∀ s : State,
    let T := s.regs.matrix
    let ok1 := TBoundOk T
    let ok2 := T.det = 2 ^ 62
    let ok3 := LimbsBounded s.regs.f ∧ LimbsBounded s.regs.g
    let ok4 := (T.u * s.regs.f.v0.toInt + T.v * s.regs.g.v0.toInt) % 2 ^ 62 = 0 ∧
      (T.q * s.regs.f.v0.toInt + T.r * s.regs.g.v0.toInt) % 2 ^ 62 = 0
    let fails := fun code => ∃ t, exec .updateFg s = .next t ∧
      State.CheckFailed code (writesOf .updateFg) s t
    (¬ok1 → fails .tBound) ∧ (ok1 → ¬ok2 → fails .tDet) ∧ (ok1 → ok2 → ¬ok3 → fails .operandRange) ∧
      (ok1 → ok2 → ok3 → ¬ok4 → fails .lowlimbNonzero)

/-! ### The driver -/

/-- R99: one driver iteration is DIVSTEPS_CT, then UPDATE_DE, then UPDATE_FG: issuing the three commands gives the
same registers, but for ITER, which the iteration raises by one and the three commands leave. INIT's pair (0, 1) under
the modulus 1 is the exception of log 18, which ModulusOneGivesZero states. -/
def Obligations.IterationIsThreeCommands : Prop :=
  ∀ (s : State) (r : Regs), iterateRule divstepsCtRule s.regs = .ok r → ¬UnitStart s.regs →
    r.iter = s.regs.iter + 1 ∧
    ∃ s1 s2 s3, exec .divstepsCt s = .next s1 ∧ exec .updateDe s1 = .next s2 ∧
      exec .updateFg s2 = .next s3 ∧
      State.CompletedWith { r with iter := s.regs.iter } s s3

/-- R103, and R104 for the checks of the iterations: when INIT's checks pass, and with either divstep command, INIT
establishes the driver's invariant at 0; from every register file that meets it at k < 12 an iteration fails no check
and gives one that meets it at k + 1; so k ≤ 12 iterations from INIT give one that meets it at k. At k = 0 under the
modulus 1 the bound on e has log 18's exception. -/
def Obligations.DriverInvariants : Prop :=
  ∀ (r0 : Regs) (gen : Regs → Except FaultCode Regs),
    InputsOk r0 → (gen = divstepsCtRule ∨ gen = divstepsVtRule) →
    (∃ r1, initRule r0 = .ok r1 ∧ DriverInv r0 0 r1) ∧
    (∀ k r, k < 12 → DriverInv r0 k r →
      ∃ r', iterateRule gen r = .ok r' ∧ DriverInv r0 (k + 1) r') ∧
    (∀ k ≤ 12, ∃ r1 r, initRule r0 = .ok r1 ∧ iterations gen k r1 = .ok r ∧ DriverInv r0 k r)

/-- R1, R108 item 5 with M = 1, the smallest valid modulus: both drivers complete with X = 0, whatever
CHECK_INVARIANTS is. That the check of R87 which refuses INIT's e = 1 there does not end a driver is DEDUCED (log 18);
a host that issues UPDATE_DE on the same registers gets OPERAND_RANGE, as R87 says. -/
def Obligations.ModulusOneGivesZero : Prop :=
  ∀ (s : State) (i : Instr), (i = .modinv ∨ i = .modinvVar) → InputsOk s.regs →
    value s.regs.mod = 1 →
    (∃ t, exec i s = .next t ∧ t.status = { s.status with busy := false, done := true } ∧
      t.regs.x = Limbs.zero ∧ t.regs.d = Limbs.zero ∧ t.regs.e = Limbs.zero ∧
      t.regs.f = s.regs.mod ∧ t.regs.g = Limbs.zero) ∧
    ∃ s1 s2 s3, exec .init s = .next s1 ∧ exec .divstepsCt s1 = .next s2 ∧
      exec .updateDe s2 = .next s3 ∧ State.CheckFailed .operandRange (writesOf .updateDe) s2 s3

/-- R100, R102, R104, R105: when INIT's checks pass, MODINV runs its 12 iterations and fails no check but
FINAL_STATE. With CHECK_INVARIANTS false it completes: X is fully normalized in [0, M), D = X, ITER = 12, and
X·x ≡ ±f for the final f with its sign folded. With CHECK_INVARIANTS true it either completes so or faults with
FINAL_STATE. No premise on the number of divsteps. -/
def Obligations.ModinvEndsForEveryInput : Prop :=
  ∀ s : State, InputsOk s.regs →
    ∃ t, exec .modinv s = .next t ∧
      ((t.status = { s.status with busy := false, done := true } ∧
          t.regs.iter = 12 ∧ t.regs.d = t.regs.x ∧ Normalized t.regs.x ∧
          0 ≤ value t.regs.x ∧ value t.regs.x < value s.regs.mod ∧
          (value t.regs.x * value s.regs.x - signedF t.regs) % value s.regs.mod = 0 ∧
          t.regs.mod = s.regs.mod ∧ t.regs.modinv62 = s.regs.modinv62 ∧ t.draws = s.draws) ∨
        (s.status.checks = true ∧ State.FaultedFrom .finalState s t))

/-- R100, R108 items 1 and 6: when INIT's checks pass, x is coprime to M, and 744 divsteps suffice for this input
(R104's premise, log 15), MODINV completes, whatever CHECK_INVARIANTS is, and X is the inverse of x modulo M, fully
normalized in [0, M); G = 0, F = ±1, D = X, ITER = 12. -/
def Obligations.ModinvComputesTheInverse : Prop :=
  ∀ s : State, InputsOk s.regs → DivstepsSuffice s.regs →
    Int.gcd (value s.regs.x) (value s.regs.mod) = 1 →
    ∃ t, exec .modinv s = .next t ∧
      t.status = { s.status with busy := false, done := true } ∧
      (value t.regs.x * value s.regs.x) % value s.regs.mod = 1 % value s.regs.mod ∧
      Normalized t.regs.x ∧ 0 ≤ value t.regs.x ∧ value t.regs.x < value s.regs.mod ∧
      t.regs.d = t.regs.x ∧ t.regs.g = Limbs.zero ∧
      (value t.regs.f = 1 ∨ value t.regs.f = -1) ∧ t.regs.iter = 12 ∧
      t.regs.mod = s.regs.mod ∧ t.regs.modinv62 = s.regs.modinv62

/-- R101, R108 items 1 and 6: the same for MODINV_VAR, after 1 to 12 iterations. -/
def Obligations.ModinvVarComputesTheInverse : Prop :=
  ∀ s : State, InputsOk s.regs → DivstepsSuffice s.regs →
    Int.gcd (value s.regs.x) (value s.regs.mod) = 1 →
    ∃ t, exec .modinvVar s = .next t ∧
      t.status = { s.status with busy := false, done := true } ∧
      (value t.regs.x * value s.regs.x) % value s.regs.mod = 1 % value s.regs.mod ∧
      Normalized t.regs.x ∧ 0 ≤ value t.regs.x ∧ value t.regs.x < value s.regs.mod ∧
      t.regs.d = t.regs.x ∧ t.regs.g = Limbs.zero ∧
      (value t.regs.f = 1 ∨ value t.regs.f = -1) ∧
      1 ≤ t.regs.iter.toNat ∧ t.regs.iter.toNat ≤ 12 ∧
      t.regs.mod = s.regs.mod ∧ t.regs.modinv62 = s.regs.modinv62

/-- R100, R101, R108 item 5, corner cases x = 0: for every valid modulus M both drivers complete with X = D = 0, F = M
and G = 0; MODINV with ITER = 12 and ETA = −745, MODINV_VAR with ITER = 1 and ETA = −63, both with
T = (2^62, 0, 0, 1). No premise on the number of divsteps. -/
def Obligations.InverseOfZeroIsZero : Prop :=
  ∀ s : State, ModinfoValid s.regs.mod s.regs.modinv62 → s.regs.x = Limbs.zero →
    (∃ t, exec .modinv s = .next t ∧
      State.CompletedWith { s.regs with
        d := Limbs.zero, e := t.regs.e, f := s.regs.mod, g := Limbs.zero, eta := BitVec.ofInt 64 (-745)
        tu := 0x4000000000000000, tv := 0, tq := 0, tr := 1, iter := 12 } s t) ∧
    (∃ t, exec .modinvVar s = .next t ∧
      State.CompletedWith { s.regs with
        d := Limbs.zero, e := t.regs.e, f := s.regs.mod, g := Limbs.zero, eta := BitVec.ofInt 64 (-63)
        tu := 0x4000000000000000, tv := 0, tq := 0, tr := 1, iter := 1 } s t)

/-- R105: when INIT's checks pass, x ≠ 0 and gcd(x, M) > 1 (and 744 divsteps suffice for this input, log 15), both
drivers fault with FINAL_STATE when CHECK_INVARIANTS is true, and when it is false complete with X the y in [0, M)
with y·x ≡ gcd(x, M) (mod M) and F = ±gcd(x, M). -/
def Obligations.CompositeModulusResult : Prop :=
  ∀ (s : State) (i : Instr), (i = .modinv ∨ i = .modinvVar) → InputsOk s.regs →
    DivstepsSuffice s.regs → value s.regs.x ≠ 0 →
    1 < Int.gcd (value s.regs.x) (value s.regs.mod) →
    ∃ t, exec i s = .next t ∧
      (s.status.checks = true → State.FaultedFrom .finalState s t) ∧
      (s.status.checks = false →
        t.status = { s.status with busy := false, done := true } ∧
        0 ≤ value t.regs.x ∧ value t.regs.x < value s.regs.mod ∧
        (value t.regs.x * value s.regs.x - Int.gcd (value s.regs.x) (value s.regs.mod)) %
          value s.regs.mod = 0 ∧
        (value t.regs.f).natAbs = Int.gcd (value s.regs.x) (value s.regs.mod))

/-- R106: whenever MODINV_VAR's rule answers registers, MODINV's does too, and X, D, F and G are the same. -/
def Obligations.DriversAgree : Prop :=
  ∀ (checks : Bool) (r rv : Regs), modinvVarRule checks r = .ok rv →
    ∃ rc, modinvRule checks r = .ok rc ∧
      rc.x = rv.x ∧ rc.d = rv.d ∧ rc.f = rv.f ∧ rc.g = rv.g ∧ rv.g = Limbs.zero

/-- R102, R108 item 1: with CHECK_INVARIANTS true, a driver that completes without a fault had a valid modulus and an
x in range, and leaves an inverse: X in [0, M) with X·x ≡ 1 (mod M), or x = 0 and X = 0. No premise on the number of
divsteps. -/
def Obligations.CheckedDriversReturnInverses : Prop :=
  ∀ (s t : State) (i : Instr), (i = .modinv ∨ i = .modinvVar) → s.status.checks = true →
    exec i s = .next t → t.status.done = true →
    InputsOk s.regs ∧ Normalized t.regs.x ∧ 0 ≤ value t.regs.x ∧ value t.regs.x < value s.regs.mod ∧
      ((value t.regs.x * value s.regs.x) % value s.regs.mod = 1 ∨
        (value s.regs.x = 0 ∧ value t.regs.x = 0))

/-! ### The host script -/

/-- R68: the bus transactions of the script lines, as accesses at the register's offset, for every REG: CMD, STATUS and
each register cell; what a number, negative or not, stores; and `reset`, which is no bus transaction. R44: a bus access 0x200 bytes
or more above ENGINE_BASE is refused. That one below ENGINE_BASE is refused too is the model's choice (log 9). -/
def Obligations.ScriptLinesAreAccesses : Prop :=
  (∀ c v, wr (.cell c) v = [.write (regOffset c) 8 v]) ∧ (∀ c, rd (.cell c) = [.read (regOffset c) 8]) ∧
    (∀ v, wr .status v = [.write 0x008 8 v]) ∧ rd .status = [.read 0x008 8] ∧
    (∀ v, wr .cmd v = [.write 0x000 8 v]) ∧ rd .cmd = [.read 0x000 8] ∧
    (∀ n : Int, ((imm n).toNat : Int) = n % 2 ^ 64) ∧
    (∀ i, cmd i = [.write 0x000 8 (encode i)]) ∧ resetLine = [.reset] ∧
    (∀ addr, ¬(Config.engineBase ≤ addr ∧ addr < Config.engineBase + 0x200) →
      ∀ (s : State) (rest : List Event) (v : Word),
      s.script = memWrite addr 8 v :: rest ∨ s.script = memRead addr 8 :: rest →
        ∃ why, step s = .refused why)

/-- R69: `wr62 V, n` on an idle engine loads the canonical limbs of n into V and changes nothing else. -/
def Obligations.Wr62LoadsTheCanonicalLimbs : Prop :=
  ∀ (s : State) (V : LimbReg) (n : Int) (rest : List Event), s.Ready → s.script = wr62 V n ++ rest →
    core.run 5 s = .next { s with regs := s.regs.setLimbs V (canon n), script := rest }
end

