-- ==== Sys2Proof/Laws/State.lean ====
section
/-! SUPPORT. One lemma per field per update of the state, and the read-after-write laws of the register cells. -/

namespace Sys2Proof.Machine

section Status
variable (st : Status) (op : Byte) (code : FaultCode) (b : Bool)

@[simp] theorem statusRecordOp_busy : (statusRecordOp op st).busy = st.busy := rfl
@[simp] theorem statusRecordOp_done : (statusRecordOp op st).done = false := rfl
@[simp] theorem statusRecordOp_fault : (statusRecordOp op st).fault = st.fault := rfl
@[simp] theorem statusRecordOp_fcode : (statusRecordOp op st).fcode = st.fcode := rfl
@[simp] theorem statusRecordOp_lastop : (statusRecordOp op st).lastop = op := rfl
@[simp] theorem statusRecordOp_checks : (statusRecordOp op st).checks = st.checks := rfl

@[simp] theorem statusBusy_busy : (statusBusy st).busy = true := rfl
@[simp] theorem statusBusy_done : (statusBusy st).done = st.done := rfl
@[simp] theorem statusBusy_fault : (statusBusy st).fault = st.fault := rfl
@[simp] theorem statusBusy_fcode : (statusBusy st).fcode = st.fcode := rfl
@[simp] theorem statusBusy_lastop : (statusBusy st).lastop = st.lastop := rfl
@[simp] theorem statusBusy_checks : (statusBusy st).checks = st.checks := rfl

@[simp] theorem statusDone_busy : (statusDone st).busy = false := rfl
@[simp] theorem statusDone_done : (statusDone st).done = true := rfl
@[simp] theorem statusDone_fault : (statusDone st).fault = st.fault := rfl
@[simp] theorem statusDone_fcode : (statusDone st).fcode = st.fcode := rfl
@[simp] theorem statusDone_lastop : (statusDone st).lastop = st.lastop := rfl
@[simp] theorem statusDone_checks : (statusDone st).checks = st.checks := rfl

@[simp] theorem statusFault_busy : (statusFault code st).busy = false := rfl
@[simp] theorem statusFault_done : (statusFault code st).done = false := rfl
@[simp] theorem statusFault_fault : (statusFault code st).fault = true := rfl
@[simp] theorem statusFault_fcode : (statusFault code st).fcode = code := rfl
@[simp] theorem statusFault_lastop : (statusFault code st).lastop = st.lastop := rfl
@[simp] theorem statusFault_checks : (statusFault code st).checks = st.checks := rfl

@[simp] theorem Status_reset_busy : (Status.reset b).busy = false := rfl
@[simp] theorem Status_reset_done : (Status.reset b).done = false := rfl
@[simp] theorem Status_reset_fault : (Status.reset b).fault = false := rfl
@[simp] theorem Status_reset_fcode : (Status.reset b).fcode = .none := rfl
@[simp] theorem Status_reset_lastop : (Status.reset b).lastop = 0 := rfl
@[simp] theorem Status_reset_checks : (Status.reset b).checks = b := rfl

end Status

section State
variable (s : State) (r : Regs) (cells : List Reg) (code : FaultCode) (v : Word)

@[simp] theorem finish_regs : (s.finish r).regs = r := rfl
@[simp] theorem finish_status : (s.finish r).status = statusDone s.status := rfl
@[simp] theorem finish_draws : (s.finish r).draws = s.draws := rfl
@[simp] theorem finish_script : (s.finish r).script = s.script := rfl
@[simp] theorem finish_readData : (s.finish r).readData = s.readData := rfl

@[simp] theorem unspecify_regs : (s.unspecify cells).regs = s.regs.unspecify s.draws cells := rfl
@[simp] theorem unspecify_status : (s.unspecify cells).status = s.status := rfl
@[simp] theorem unspecify_draws : (s.unspecify cells).draws = s.draws + cells.length := rfl
@[simp] theorem unspecify_script : (s.unspecify cells).script = s.script := rfl
@[simp] theorem unspecify_readData : (s.unspecify cells).readData = s.readData := rfl

@[simp] theorem raiseFault_regs : (s.raiseFault code).regs = s.regs.unspecify s.draws faultedRegs := rfl
@[simp] theorem raiseFault_status : (s.raiseFault code).status = statusFault code s.status := rfl
@[simp] theorem raiseFault_draws : (s.raiseFault code).draws = s.draws + faultedRegs.length := rfl
@[simp] theorem raiseFault_script : (s.raiseFault code).script = s.script := rfl
@[simp] theorem raiseFault_readData : (s.raiseFault code).readData = s.readData := rfl

@[simp] theorem finishUnspecified_regs : (s.finishUnspecified cells).regs = s.regs.unspecify s.draws cells := rfl
@[simp] theorem finishUnspecified_status : (s.finishUnspecified cells).status = statusDone s.status := rfl
@[simp] theorem finishUnspecified_draws : (s.finishUnspecified cells).draws = s.draws + cells.length := rfl
@[simp] theorem finishUnspecified_script : (s.finishUnspecified cells).script = s.script := rfl
@[simp] theorem finishUnspecified_readData : (s.finishUnspecified cells).readData = s.readData := rfl

@[simp] theorem resetEngine_regs : s.resetEngine.regs = Regs.reset := rfl
@[simp] theorem resetEngine_status : s.resetEngine.status = Status.reset s.status.checks := rfl
@[simp] theorem resetEngine_draws : s.resetEngine.draws = s.draws := rfl
@[simp] theorem resetEngine_script : s.resetEngine.script = s.script := rfl
@[simp] theorem resetEngine_readData : s.resetEngine.readData = s.readData := rfl

@[simp] theorem answer_regs : (s.answer v).regs = s.regs := rfl
@[simp] theorem answer_status : (s.answer v).status = s.status := rfl
@[simp] theorem answer_draws : (s.answer v).draws = s.draws := rfl
@[simp] theorem answer_script : (s.answer v).script = s.script := rfl
@[simp] theorem answer_readData : (s.answer v).readData = v :: s.readData := rfl

@[simp] theorem answerUnspecified_regs : s.answerUnspecified.regs = s.regs := rfl
@[simp] theorem answerUnspecified_status : s.answerUnspecified.status = s.status := rfl
@[simp] theorem answerUnspecified_draws : s.answerUnspecified.draws = s.draws + 1 := rfl
@[simp] theorem answerUnspecified_script : s.answerUnspecified.script = s.script := rfl
@[simp] theorem answerUnspecified_readData : s.answerUnspecified.readData = Config.unspecified s.draws :: s.readData := rfl

@[simp] theorem idle_regs : s.idle.regs = s.regs := rfl
@[simp] theorem idle_status : s.idle.status = { s.status with busy := false, fault := false, fcode := .none } := rfl
@[simp] theorem idle_draws : s.idle.draws = s.draws := rfl
@[simp] theorem idle_script : s.idle.script = s.script := rfl
@[simp] theorem idle_readData : s.idle.readData = s.readData := rfl

end State

section Cells

@[simp] theorem limb_setLimb_same (V : Limbs) (i : Fin 5) (w : Word) : (V.setLimb i w).limb i = w := by
  fin_cases i <;> rfl

theorem limb_setLimb_other (V : Limbs) {i j : Fin 5} (h : j ≠ i) (w : Word) :
    (V.setLimb i w).limb j = V.limb j := by
  fin_cases i <;> fin_cases j <;> first | rfl | exact absurd rfl h

@[simp] theorem limbs_setLimbs_same (r : Regs) (V : LimbReg) (l : Limbs) : (r.setLimbs V l).limbs V = l := by
  cases V <;> rfl

theorem limbs_setLimbs_other (r : Regs) {V W : LimbReg} (h : W ≠ V) (l : Limbs) :
    (r.setLimbs V l).limbs W = r.limbs W := by
  cases V <;> cases W <;> first | rfl | exact absurd rfl h

/-- A read of the cell just written gives the value written. -/
@[simp] theorem get_set_same (r : Regs) (c : Reg) (w : Word) : (r.set c w).get c = w := by
  cases c <;> simp [Regs.set, Regs.get]

/-- A write of one cell leaves every other cell alone: no register is an alias of another (R21). -/
theorem get_set_other (r : Regs) {c c' : Reg} (h : c' ≠ c) (w : Word) : (r.set c w).get c' = r.get c' := by
  cases c <;> cases c' <;> first | rfl | exact absurd rfl h | skip
  case limb.limb V i W j =>
    by_cases hV : W = V
    · subst hV
      have hj : j ≠ i := fun e => h (by rw [e])
      simp [Regs.set, Regs.get, limb_setLimb_other _ hj]
    · simp [Regs.set, Regs.get, limbs_setLimbs_other _ hV]
  all_goals (rename_i V i; cases V <;> rfl)

@[simp] theorem unspecifyRegs_nil (first : Nat) (r : Regs) : r.unspecify first [] = r := rfl

/-- Drawing leaves every cell outside the list alone. -/
theorem unspecifyRegs_other {c : Reg} {cells : List Reg} (h : c ∉ cells) (first : Nat) (r : Regs) :
    (r.unspecify first cells).get c = r.get c := by
  induction cells generalizing first r with
  | nil => rfl
  | cons b cs ih =>
    rw [List.mem_cons, not_or] at h
    rw [Regs.unspecify, ih h.2, get_set_other r h.1]

/-- The k-th cell of a list without repeats gets draw number first + k. -/
theorem unspecifyRegs_get {cells : List Reg} (hn : cells.Nodup) (first : Nat) (r : Regs) (k : Nat)
    (hk : k < cells.length) :
    (r.unspecify first cells).get cells[k] = Config.unspecified (first + k) := by
  induction cells generalizing first r k with
  | nil => simp at hk
  | cons b cs ih =>
    obtain ⟨hb, hcs⟩ := List.nodup_cons.1 hn
    cases k with
    | zero => simp [Regs.unspecify, unspecifyRegs_other hb]
    | succ k =>
      have := ih hcs (first + 1) (r.set b (Config.unspecified first)) k (by simpa using hk)
      simpa [Regs.unspecify, Nat.add_assoc, Nat.add_comm 1 k] using this

/-- Limbs are equal when their five limbs are. -/
theorem limbs_ext_limb {V W : Limbs} (h : ∀ i, V.limb i = W.limb i) : V = W := by
  cases V; cases W
  have h0 := h 0; have h1 := h 1; have h2 := h 2; have h3 := h 3; have h4 := h 4
  simp only [Limbs.limb] at h0 h1 h2 h3 h4
  simp [h0, h1, h2, h3, h4]

/-- Register files are equal when every cell is. -/
theorem regs_ext_get {r r' : Regs} (h : ∀ c, r.get c = r'.get c) : r = r' := by
  have hl : ∀ V, r.limbs V = r'.limbs V := fun V => limbs_ext_limb fun i => h (.limb V i)
  have hm := hl .mod; have hx := hl .x; have hd := hl .d
  have he := hl .e; have hf := hl .f; have hg := hl .g
  have h1 := h .eta; have h2 := h .iter; have h3 := h .tu; have h4 := h .tv
  have h5 := h .tq; have h6 := h .tr; have h7 := h .modinv62
  cases r; cases r'
  simp only [Regs.limbs, Regs.get] at *
  simp [*]

end Cells

end Sys2Proof.Machine
end

