-- ==== Sys2Proof/Laws/Ops.lean ====
section
/-! SUPPORT. One lemma per shared operation that says everything it can do: checks, the end of a command, the host's
accesses, the agents' steps, and what each command's rule answers. Later proofs cite these. -/

namespace Sys2Proof.Machine

/-! ### Checks and the rules of the commands -/

@[simp] theorem require_pos {p : Prop} [Decidable p] (h : p) (code : FaultCode) : require p code = .ok () := by
  simp [require, h]

@[simp] theorem require_neg {p : Prop} [Decidable p] (h : ¬p) (code : FaultCode) :
    require p code = .error code := by
  simp [require, h]

/-- A check followed by the rest of a rule. -/
theorem require_bind {α : Type} (p : Prop) [Decidable p] (code : FaultCode) (k : Unit → Except FaultCode α) :
    (require p code >>= k) = if p then k () else .error code := by
  by_cases h : p <;> simp [h, bind, Except.bind]

/-- A rule whose first part succeeds goes on with its result, and one whose first part fails fails with its code. -/
@[simp] theorem ok_bind {α β : Type} (a : α) (k : α → Except FaultCode β) :
    ((.ok a : Except FaultCode α) >>= k) = k a := rfl

@[simp] theorem error_bind {α β : Type} (code : FaultCode) (k : α → Except FaultCode β) :
    ((.error code : Except FaultCode α) >>= k) = .error code := rfl

/-- A composed rule answers a value exactly when both parts do. -/
theorem bind_eq_ok {α β : Type} {x : Except FaultCode α} {k : α → Except FaultCode β} {b : β} :
    (x >>= k) = .ok b ↔ ∃ a, x = .ok a ∧ k a = .ok b := by
  cases x <;> simp

/-- INIT's rule in full (R98). -/
theorem initRule_eq (r : Regs) : initRule r =
    if ModinfoValid r.mod r.modinv62 then
      if XOk r.x r.mod then
        .ok { r with
          d := Limbs.zero, e := Limbs.one, f := r.mod, g := r.x,
          eta := BitVec.ofInt 64 (-1), iter := 0 }
      else .error .operandRange
    else .error .modinfoInvalid := by
  simp only [initRule, require_bind]

/-- The rule of both divstep commands in full (R77, R79). -/
theorem divstepsRule_eq (r : Regs) : divstepsRule r =
    if r.f.v0.toNat % 2 = 1 then
      if etaStaysOk stepsPerMatrix (wordTriple r.eta r.f.v0 r.g.v0) = true then
        .ok (r.setDivsteps (divsteps62 r.eta r.f.v0 r.g.v0))
      else .error .etaRange
    else .error .fEven := by
  simp only [divstepsRule, require_bind]

/-- NORMALIZE's rule in full (R71). -/
theorem normalizeRule_eq (r : Regs) : normalizeRule r =
    if ModinfoValid r.mod r.modinv62 then
      if ResidueOk r.d r.mod then
        .ok { r with d := (normalize62 r.d.ints r.f.v4.toInt r.mod.ints).words }
      else .error .operandRange
    else .error .modinfoInvalid := by
  simp only [normalizeRule, require_bind]

/-- UPDATE_DE in full, with `ok` as check 4 (R86, R87). -/
theorem updateDeWith_eq (ok : Prop) [Decidable ok] (r : Regs) : updateDeWith ok r =
    if ModinfoValid r.mod r.modinv62 then
      if TBoundOk r.matrix then
        if r.matrix.det = radix then
          if ok then
            if low62 (deRow r.matrix.u r.matrix.v r.d.ints r.e.ints r.mod.ints r.modinv62.toNat).v0 = 0 ∧
                low62 (deRow r.matrix.q r.matrix.r r.d.ints r.e.ints r.mod.ints r.modinv62.toNat).v0 = 0 then
              .ok { r with
                d := (shiftOut
                  (deRow r.matrix.u r.matrix.v r.d.ints r.e.ints r.mod.ints r.modinv62.toNat)).words
                e := (shiftOut
                  (deRow r.matrix.q r.matrix.r r.d.ints r.e.ints r.mod.ints r.modinv62.toNat)).words }
            else .error .lowlimbNonzero
          else .error .operandRange
        else .error .tDet
      else .error .tBound
    else .error .modinfoInvalid := by
  simp only [updateDeWith, require_bind]

/-- Away from INIT's pair under the modulus 1, UPDATE_DE in a driver is the command's rule (R99, log 18). -/
theorem updateDeDriver_eq {r : Regs} (h : ¬UnitStart r) : updateDeDriver r = updateDeRule r := by
  simp only [updateDeDriver, updateDeRule, updateDeWith_eq, h, or_false]

/-- Where the command's rule answers, UPDATE_DE in a driver answers the same (log 18). -/
theorem updateDeDriver_of_rule {r r' : Regs} (h : updateDeRule r = .ok r') : updateDeDriver r = .ok r' := by
  by_cases hr : ResidueOk r.d r.mod ∧ ResidueOk r.e r.mod
  · have hd : (ResidueOk r.d r.mod ∧ ResidueOk r.e r.mod) ∨ UnitStart r := .inl hr
    simp only [updateDeDriver, updateDeRule, updateDeWith_eq, if_pos hd, if_pos hr] at h ⊢
    exact h
  · simp only [updateDeRule, updateDeWith_eq, if_neg hr] at h
    split_ifs at h

/-- UPDATE_FG's rule in full (R92, R93). -/
theorem updateFgRule_eq (r : Regs) : updateFgRule r =
    if TBoundOk r.matrix then
      if r.matrix.det = radix then
        if LimbsBounded r.f ∧ LimbsBounded r.g then
          if low62 (fgRow r.matrix.u r.matrix.v r.f.ints r.g.ints).v0 = 0 ∧
              low62 (fgRow r.matrix.q r.matrix.r r.f.ints r.g.ints).v0 = 0 then
            .ok { r with
              f := (shiftOut (fgRow r.matrix.u r.matrix.v r.f.ints r.g.ints)).words
              g := (shiftOut (fgRow r.matrix.q r.matrix.r r.f.ints r.g.ints)).words }
          else .error .lowlimbNonzero
        else .error .operandRange
      else .error .tDet
    else .error .tBound := by
  simp only [updateFgRule, require_bind]

/-- One iteration answers a value exactly when its three commands do, one after the other (R99). -/
theorem iterateRule_eq_ok {gen : Regs → Except FaultCode Regs} {r r' : Regs} : iterateRule gen r = .ok r' ↔
    ∃ r1 r2 r3, gen r = .ok r1 ∧ updateDeDriver r1 = .ok r2 ∧ updateFgRule r2 = .ok r3 ∧
      r' = { r3 with iter := r3.iter + 1 } := by
  simp only [iterateRule, bind_eq_ok, Except.ok.injEq]
  constructor
  · rintro ⟨r1, h1, r2, h2, r3, h3, rfl⟩
    exact ⟨r1, r2, r3, h1, h2, h3, rfl⟩
  · rintro ⟨r1, r2, r3, h1, h2, h3, rfl⟩
    exact ⟨r1, h1, r2, h2, r3, h3, rfl⟩

@[simp] theorem iterations_zero (gen : Regs → Except FaultCode Regs) (r : Regs) :
    iterations gen 0 r = .ok r := rfl

theorem iterations_succ (gen : Regs → Except FaultCode Regs) (n : Nat) (r : Regs) :
    iterations gen (n + 1) r = (iterateRule gen r >>= iterations gen n) := rfl

/-- The last iteration split off. -/
theorem iterations_succ_last (gen : Regs → Except FaultCode Regs) (n : Nat) (r : Regs) :
    iterations gen (n + 1) r = (iterations gen n r >>= iterateRule gen) := by
  induction n generalizing r with
  | zero =>
    rw [iterations_succ]
    cases h : iterateRule gen r <;> simp [h]
  | succ n ih =>
    rw [iterations_succ]
    conv_rhs => rw [iterations_succ]
    cases h : iterateRule gen r <;> simp [ih]

/-- A value of the VT loop is that of some number of iterations, 1 to n, all but the last with G ≠ 0 (R101). -/
theorem vtLoop_eq_ok {n : Nat} {r r' : Regs} (h : vtLoop n r = .ok r') :
    ∃ k, 1 ≤ k ∧ k ≤ n ∧ iterations divstepsVtRule k r = .ok r' ∧ r'.g = Limbs.zero := by
  induction n generalizing r with
  | zero => simp [vtLoop] at h
  | succ n ih =>
    simp only [vtLoop, bind_eq_ok] at h
    obtain ⟨r1, h1, h2⟩ := h
    split at h2
    · rename_i hz
      simp only [Except.ok.injEq] at h2
      subst h2
      exact ⟨1, le_refl 1, by omega, by simp [iterations_succ, h1], hz⟩
    · obtain ⟨k, hk1, hkn, hk, hz⟩ := ih h2
      exact ⟨k + 1, by omega, by omega, by simp [iterations_succ, h1, hk], hz⟩

/-- The end of a driver in full (R100, R101, R102). -/
theorem driverEnd_eq (checks : Bool) (r : Regs) : driverEnd checks r =
    if checks = true → FinalOk r then
      (match normalizeRule r with
        | .ok r1 => .ok { r1 with x := r1.d }
        | .error code => .error code)
    else .error .finalState := by
  simp only [driverEnd, require_bind]
  split
  · cases normalizeRule r <;> rfl
  · rfl

/-! ### The end of a command -/

/-- A command completes with its rule's registers, or raises the fault of its first failed check, or completes with
UNSPECIFIED destinations (R65, R112, R114). -/
theorem conclude_cases (cells : List Reg) (res : Except FaultCode Regs) (s : State) :
    (∃ r, res = .ok r ∧ s.conclude cells res = s.finish r) ∨
    (∃ code, res = .error code ∧ s.status.checks = true ∧ s.conclude cells res = s.raiseFault code) ∨
    (∃ code, res = .error code ∧ s.status.checks = false ∧
      s.conclude cells res = s.finishUnspecified cells) := by
  cases res with
  | ok r => exact .inl ⟨r, rfl, rfl⟩
  | error code =>
    cases h : s.status.checks
    · exact .inr (.inr ⟨code, rfl, rfl, by simp [State.conclude, h]⟩)
    · exact .inr (.inl ⟨code, rfl, rfl, by simp [State.conclude, h]⟩)

/-- Every command is its rule, concluded on its destinations. -/
theorem exec_eq_conclude (i : Instr) (s : State) :
    exec i s = .next (s.conclude (writesOf i) (ruleOf s.status.checks i s.regs)) := by
  cases i <;> rfl

theorem faultedRegs_nodup : faultedRegs.Nodup := by decide

theorem writesOf_nodup (i : Instr) : (writesOf i).Nodup := by cases i <;> decide

theorem writesOf_subset_faultedRegs (i : Instr) : ∀ c ∈ writesOf i, c ∈ faultedRegs := by
  cases i <;> decide

/-- A cell survives a fault exactly when a fault does not draw for it (R113, R49). -/
theorem survivesFault_iff (c : Reg) : survivesFault c = true ↔ c ∉ faultedRegs := by
  cases c with
  | limb V i => revert V i; intro V i; cases V <;> fin_cases i <;> decide
  | _ => decide

/-! ### The window and the agents' steps -/

/-- The access test of the machine and the well-formedness of an access agree (R44). -/
theorem accessRefusal_eq_none (off width : Nat) : accessRefusal off width = none ↔ accessWf off width = true := by
  unfold accessRefusal accessWf windowBytes
  by_cases h1 : width = 8 <;> by_cases h2 : off % 8 = 0 <;> by_cases h3 : 0x200 ≤ off <;>
    (simp [h1, h2, h3]; try omega)

/-- The map names each register cell at its offset (R41). -/
theorem slotAt_regOffset (c : Reg) : slotAt (regOffset c) = .reg c := by
  cases c with
  | limb V i => cases V <;> fin_cases i <;> decide
  | _ => decide

/-- Acceptance of a word: BUSY for a command, ILLEGAL_CMD for any other (R63). -/
theorem acceptCommand_cases (w : Word) (s : State) :
    (∃ i, decode w = .ok i ∧
      s.acceptCommand w = { s with status := statusBusy (statusRecordOp (opField w) s.status) }) ∨
    (∃ why, decode w = .error why ∧
      s.acceptCommand w =
        State.raiseFault .illegalCmd { s with status := statusRecordOp (opField w) s.status }) := by
  cases h : decode w with
  | ok i => exact .inl ⟨i, rfl, by simp [State.acceptCommand, h]⟩
  | error why => exact .inr ⟨why, rfl, by simp [State.acceptCommand, h]⟩

/-- A guarded write is ignored, faults, or takes effect (R48, R49, R63). -/
theorem guardedWrite_cases (effect : State → State) (s : State) :
    (s.status.fault = true ∧ s.guardedWrite effect = s) ∨
    (s.status.fault = false ∧ s.status.busy = true ∧ s.guardedWrite effect = s.raiseFault .busyWrite) ∨
    (s.status.fault = false ∧ s.status.busy = false ∧ s.guardedWrite effect = effect s) := by
  cases hf : s.status.fault <;> cases hb : s.status.busy <;> simp [State.guardedWrite, hf, hb]

/-- A host write leaves everything, or is a guarded acceptance, or a guarded store of one cell other than ITER. -/
theorem hostWrite_cases (off : Nat) (v : Word) (s : State) :
    s.hostWrite off v = s ∨
    (slotAt off = .cmd ∧ s.hostWrite off v = s.guardedWrite (State.acceptCommand v)) ∨
    (∃ c, slotAt off = .reg c ∧ c ≠ .iter ∧
      s.hostWrite off v = s.guardedWrite fun t => { t with regs := t.regs.set c v }) := by
  unfold State.hostWrite
  cases h : slotAt off with
  | cmd => exact .inr (.inl ⟨rfl, rfl⟩)
  | status => exact .inl rfl
  | reserved => exact .inl rfl
  | reg c =>
    by_cases hc : c = .iter
    · subst hc; exact .inl rfl
    · refine .inr (.inr ⟨c, rfl, hc, ?_⟩)
      cases c <;> first | rfl | exact absurd rfl hc

/-- A host read only answers: a value, or the next free draw (R46 to R49). -/
theorem hostRead_cases (off : Nat) (s : State) :
    (∃ v, s.hostRead off = s.answer v) ∨ s.hostRead off = s.answerUnspecified := by
  unfold State.hostRead
  split
  · exact .inl ⟨_, rfl⟩
  · exact .inl ⟨_, rfl⟩
  · exact .inl ⟨_, rfl⟩
  · split
    · exact .inr rfl
    · split
      · exact .inr rfl
      · exact .inl ⟨_, rfl⟩

/-- The engine's turn: the running command's meaning, or nothing, or the model's own stop (R67). -/
theorem completeStep_cases (s : State) :
    (s.status.busy = false ∧ completeStep s = .next s) ∨
    (∃ i, s.status.busy = true ∧ decode (fetchWord s) = .ok i ∧ completeStep s = exec i s) ∨
    (∃ why, s.status.busy = true ∧ decode (fetchWord s) = .error why ∧
      completeStep s = .fault .busyWithoutCommand) := by
  cases hb : s.status.busy
  · exact .inl ⟨rfl, by simp [completeStep, hb]⟩
  · cases hd : decode (fetchWord s) with
    | ok i => exact .inr (.inl ⟨i, rfl, rfl, by simp [completeStep, hb, hd]⟩)
    | error why => exact .inr (.inr ⟨why, rfl, rfl, by simp [completeStep, hb, hd]⟩)

/-- What an event can answer when it answers a next state (R67). -/
theorem applyEvent_cases {ev : Event} {s t : State} (h : applyEvent ev s = .next t) :
    (∃ off width, ev = .read off width ∧ accessRefusal off width = none ∧ t = s.hostRead off) ∨
    (∃ off width v, ev = .write off width v ∧ accessRefusal off width = none ∧ t = s.hostWrite off v) ∨
    (ev = .reset ∧ t = s.resetEngine) ∨
    (ev = .complete ∧ completeStep s = .next t) := by
  cases ev with
  | read off width =>
    simp only [applyEvent] at h
    split at h
    · cases h
    · rename_i hr
      cases h
      exact .inl ⟨off, width, rfl, hr, rfl⟩
  | write off width v =>
    simp only [applyEvent] at h
    split at h
    · cases h
    · rename_i hr
      cases h
      exact .inr (.inl ⟨off, width, v, rfl, hr, rfl⟩)
  | reset => cases h; exact .inr (.inr (.inl ⟨rfl, rfl⟩))
  | complete => exact .inr (.inr (.inr ⟨rfl, h⟩))

/-- The step with an empty script is the engine's turn. -/
theorem step_nil {s : State} (h : s.script = []) : step s = completeStep s := by
  simp [step, nextStep, h]

/-- The step with an event waiting is that event. -/
theorem step_cons {s : State} {ev : Event} {rest : List Event} (h : s.script = ev :: rest) :
    step s = applyEvent ev { s with script := rest } := by
  simp [step, nextStep, h]

/-- A host address inside the window is its offset (R40). -/
@[simp] theorem busOffset_add (off : Nat) : busOffset (Config.engineBase + off) = off := by
  simp [busOffset]

/-- ENGINE_BASE itself is offset 0, CMD (R40, R41). -/
@[simp] theorem busOffset_base : busOffset Config.engineBase = 0 := by simp [busOffset]

@[simp] theorem scriptOffset_cmd : scriptOffset .cmd = cmdOffset := rfl
@[simp] theorem scriptOffset_status : scriptOffset .status = statusOffset := rfl
@[simp] theorem scriptOffset_cell (c : Reg) : scriptOffset (.cell c) = regOffset c := rfl

end Sys2Proof.Machine
end

