-- ==== Sys2Proof/Laws/Arith.lean ====
section
/-! SUPPORT. The arithmetic of the shared limb operations: what each does to the value of five limbs, in exact
integers. -/

namespace Sys2Proof.Machine

/-- Carry propagation keeps the value (R71 steps 3 and 5). -/
theorem propagate_total (r : IntLimbs) : (propagate r).total = r.total := by
  simp only [propagate, IntLimbs.total, low62, sar62, radix]
  omega

/-- Carry propagation leaves digits in limbs 0 to 3. -/
theorem propagate_digits (r : IntLimbs) :
    LimbDigit (propagate r).v0 ∧ LimbDigit (propagate r).v1 ∧ LimbDigit (propagate r).v2 ∧
      LimbDigit (propagate r).v3 := by
  simp only [propagate, LimbDigit, low62, sar62, radix]
  omega

/-- Adding a masked modulus adds it or nothing. -/
theorem addMasked_total (r m : IntLimbs) (c : Int) :
    (addMasked r m c).total = r.total + andMask m.total c := by
  simp only [addMasked, andMask, IntLimbs.total, radix]
  split <;> omega

/-- The masked negation negates the value or keeps it. -/
theorem negMasked_total (r : IntLimbs) (c : Int) : (negMasked r c).total = negMask r.total c := by
  simp only [negMasked, negMask, IntLimbs.total, radix]
  split <;> omega

/-- Shifting the accumulator out divides by 2^62, and loses limb 0's low bits only. -/
theorem shiftOut_total (t : IntLimbs) : radix * (shiftOut t).total = t.total - low62 t.v0 := by
  simp only [shiftOut, IntLimbs.total, low62, sar62, radix]
  omega

/-- Shifting the accumulator out leaves digits in limbs 0 to 3. -/
theorem shiftOut_digits (t : IntLimbs) :
    LimbDigit (shiftOut t).v0 ∧ LimbDigit (shiftOut t).v1 ∧ LimbDigit (shiftOut t).v2 ∧
      LimbDigit (shiftOut t).v3 := by
  simp only [shiftOut, LimbDigit, low62, sar62, radix]
  omega

/-- The value of a row sum is the combination of the values. -/
theorem combine_total (a b c : Int) (d e m : IntLimbs) :
    (combine a b c d e m).total = a * d.total + b * e.total + m.total * c := by
  simp only [combine, IntLimbs.total]
  ring

/-- Divsteps compose. -/
theorem divsteps_add (m n : Nat) (t : DivTriple) : divsteps (m + n) t = divsteps n (divsteps m t) := by
  induction m generalizing t with
  | zero => simp [divsteps]
  | succ m ih => rw [Nat.add_right_comm]; exact ih (divstep t)

/-- Once g = 0, every further divstep takes the third case and g stays 0 (R104). -/
theorem divsteps_g_zero {t : DivTriple} (h : t.g = 0) (n : Nat) : (divsteps n t).g = 0 := by
  induction n generalizing t with
  | zero => exact h
  | succ n ih => exact ih (by simp [divstep, h])

/-- g = 0 after some divsteps is g = 0 after any more. -/
theorem divsteps_g_zero_of_le {t : DivTriple} {m n : Nat} (hmn : m ≤ n) (h : (divsteps m t).g = 0) :
    (divsteps n t).g = 0 := by
  obtain ⟨k, rfl⟩ := Nat.exists_eq_add_of_le hmn
  rw [divsteps_add]
  exact divsteps_g_zero h k

/-- Limbs within the signed 64-bit range are what a register gives back. -/
theorem words_ints {r : IntLimbs}
    (h0 : -2 ^ 63 ≤ r.v0 ∧ r.v0 < 2 ^ 63) (h1 : -2 ^ 63 ≤ r.v1 ∧ r.v1 < 2 ^ 63)
    (h2 : -2 ^ 63 ≤ r.v2 ∧ r.v2 < 2 ^ 63) (h3 : -2 ^ 63 ≤ r.v3 ∧ r.v3 < 2 ^ 63)
    (h4 : -2 ^ 63 ≤ r.v4 ∧ r.v4 < 2 ^ 63) : r.words.ints = r := by
  have key : ∀ n : Int, -2 ^ 63 ≤ n ∧ n < 2 ^ 63 → (BitVec.ofInt 64 n).toInt = n := by
    intro n hn
    rw [BitVec.toInt_ofInt, Int.bmod_def]
    norm_num at hn ⊢
    omega
  cases r
  simp only [IntLimbs.words, Limbs.ints, IntLimbs.mk.injEq]
  exact ⟨key _ h0, key _ h1, key _ h2, key _ h3, key _ h4⟩

end Sys2Proof.Machine
end

