-- ==== Sys2Proof/Laws/PerInstr.lean ====
section
/-! SUPPORT. The family of statements made per instruction: every instruction is well formed, and its command word
has RSV = 0 and the OP of the opcode table (30_encoding.md R57, R60). -/

namespace Sys2Proof.Laws.LegalWord

/-- An instruction's word has the table's OP, and RSV = 0. -/
def Statement (i : Instr) : Prop :=
  i.wf = true ∧ rsvField (encode i) = 0 ∧ (opField (encode i)).toNat = i.opNumber

theorem init : Statement .init := by unfold Statement; decide
theorem divstepsCt : Statement .divstepsCt := by unfold Statement; decide
theorem divstepsVt : Statement .divstepsVt := by unfold Statement; decide
theorem updateDe : Statement .updateDe := by unfold Statement; decide
theorem updateFg : Statement .updateFg := by unfold Statement; decide
theorem normalize : Statement .normalize := by unfold Statement; decide
theorem modinv : Statement .modinv := by unfold Statement; decide
theorem modinvVar : Statement .modinvVar := by unfold Statement; decide

end Sys2Proof.Laws.LegalWord
end

