-- ==== Sys2Proof/Tests/Slice0.lean ====
section
/-! SUPPORT. Tests: the well-formedness smoke, decoding, the spec's vectors (95_test_vectors.md), and for every
statement with hypotheses a state that meets them. -/

set_option Elab.async false

namespace Sys2Proof.Tests

open Sys2Proof Sys2Proof.Machine

/-! ### Helpers -/

/-- The outcome is a next state with the property. -/
def nextSat (o : Host.Outcome State Fault Refusal) (p : State → Bool) : Bool :=
  match o with
  | .next t => p t
  | .fault _ => false
  | .refused _ => false

/-- The outcome is a refusal. -/
def isRefused (o : Host.Outcome State Fault Refusal) : Bool :=
  match o with
  | .next _ => false
  | .fault _ => false
  | .refused _ => true

/-- P, the secp256k1 field prime of R18. -/
def primeP : Int :=
  115792089237316195423570985008687907853269984665640564039457584007908834671663

/-- MODINV62 for P (R18). -/
def invP : Word := 0x27C7F6E22DDACACF

/-- The reset registers with a modulus and an X. -/
def inputs (m : Int) (inv : Word) (x : Int) : Regs :=
  { Regs.reset with mod := canon m, modinv62 := inv, x := canon x }

/-- P and X = 2. -/
def regsP2 : Regs := inputs primeP invP 2

/-- P's registers after INIT and the divsteps of the first iteration of MODINV(2, P) (95 §5 and §6, row 1). -/
def regsStep : Regs :=
  { regsP2 with
    d := canon 0, e := canon 1, f := canon primeP, g := canon 2, eta := -1
    tu := BitVec.ofInt 64 (-0x13FFFFB38), tv := 0x160091FA4
    tq := BitVec.ofInt 64 (-0xBFFFFD22), tr := 0xA005789F }

/-- An idle engine. -/
def idle (checks : Bool) (r : Regs) (script : List Event) : State :=
  ⟨r, Status.reset checks, 0, script, []⟩

/-- An engine running the command with number `op`. -/
def running (op : Byte) (r : Regs) (script : List Event) : State :=
  ⟨r, { Status.reset true with busy := true, lastop := op }, 0, script, []⟩

/-- A faulted engine. -/
def faulted (script : List Event) : State :=
  ⟨regsP2, { Status.reset true with fault := true, fcode := .tDet, lastop := 4 }, 0, script, []⟩

/-! ### Well-formedness: an ill-formed term for each check -/

theorem test_wf_refuses_reserved_bits : CmdFields.wf ⟨0x01, 1⟩ = false := by decide
theorem test_wf_refuses_op_zero : CmdFields.wf ⟨0x00, 0⟩ = false := by decide
theorem test_wf_refuses_op_nine : CmdFields.wf ⟨0x09, 0⟩ = false := by decide
theorem test_wf_refuses_narrow_access : Event.wf (.read 0x010 4) = false := by decide
theorem test_wf_refuses_misaligned_access : Event.wf (.write 0x014 8 0) = false := by decide
theorem test_wf_refuses_outside_access : Event.wf (.read 0x200 8) = false := by decide
theorem test_wf_accepts_instr : Instr.wf .modinvVar = true := by decide

/-! ### Decoding: each word from R57 and R60, RSV in bits 63:8 and OP in bits 7:0 -/

theorem test_decode_init : decode (0#56 ++ 0b00000001#8) = .ok .init := by rfl
theorem test_decode_divstepsCt : decode (0#56 ++ 0b00000010#8) = .ok .divstepsCt := by rfl
theorem test_decode_divstepsVt : decode (0#56 ++ 0b00000011#8) = .ok .divstepsVt := by rfl
theorem test_decode_updateDe : decode (0#56 ++ 0b00000100#8) = .ok .updateDe := by rfl
theorem test_decode_updateFg : decode (0#56 ++ 0b00000101#8) = .ok .updateFg := by rfl
theorem test_decode_normalize : decode (0#56 ++ 0b00000110#8) = .ok .normalize := by rfl
theorem test_decode_modinv : decode (0#56 ++ 0b00000111#8) = .ok .modinv := by rfl
theorem test_decode_modinvVar : decode (0#56 ++ 0b00001000#8) = .ok .modinvVar := by rfl

/-- 95 §2: the illegal words of the table. -/
theorem test_decode_illegal :
    decode 0x0 = .error .reservedOpcode ∧ decode 0x9 = .error .reservedOpcode ∧
    decode 0xFF = .error .reservedOpcode ∧ decode 0x107 = .error .reservedBits ∧
    decode 0x8000000000000001 = .error .reservedBits := ⟨rfl, rfl, rfl, rfl, rfl⟩

theorem test_decode_truncated : decodeBytes [7, 0, 0, 0, 0, 0, 0] = .error .truncated := by rfl

theorem test_table_word : decodeTableWord 64 8 = some .modinvVar ∧ decodeTableWord 64 0x109 = none := by
  decide

/-- 95 §2: STATUS right after an illegal word, 0x00090104 + c·0x01000000 with c = 1. -/
theorem test_illegal_word_status :
    nextSat (step (idle true Regs.reset [.write 0x000 8 0x109])) (fun t =>
      statusWord t.status == 0x01090104) = true := by decide +kernel

/-- 95 §2: ETA written and read back. -/
theorem test_window_write_read :
    nextSat (core.run 2 (idle true Regs.reset [.write 0x010 8 0xFFFFFFFFFFFFFFFF, .read 0x010 8]))
      (fun t => t.readData == [0xFFFFFFFFFFFFFFFF]) = true := by decide +kernel

/-! ### The commands, on the vectors of 95_test_vectors.md -/

/-- 95 §7, INIT, X = canon(2). -/
theorem test_init_sets_up :
    nextSat (exec .init (idle true regsP2 [])) (fun t =>
      t.regs == { regsP2 with e := canon 1, f := canon primeP, g := canon 2, eta := -1 } &&
      statusWord t.status == 0x01000002) = true := by decide +kernel

/-- 95 §7, INIT, X = canon(P): OPERAND_RANGE. -/
theorem test_init_rejects_x_eq_m :
    nextSat (exec .init (idle true (inputs primeP invP primeP) [])) (fun t =>
      t.status.fcode == .operandRange && t.regs.mod == canon primeP) = true := by decide +kernel

/-- 95 §4, row η = −1, g0 = 2. -/
theorem test_divstepsCt_row :
    nextSat (exec .divstepsCt (idle true { regsStep with tu := 0, tv := 0, tq := 0, tr := 0 } [])) (fun t =>
      t.regs == regsStep) = true := by decide +kernel

/-- 95 §4 checks: η = −745, f0 = 1, g0 = 0 gives ETA_RANGE. -/
theorem test_divstepsCt_eta_range :
    nextSat (exec .divstepsCt (idle true
      { Regs.reset with eta := BitVec.ofInt 64 (-745), f := canon 1 } [])) (fun t =>
      t.status.fcode == .etaRange) = true := by decide +kernel

/-- 95 §4, row η = 3, g0 = 0x8000000000000005: bits 63..62 do not matter. -/
theorem test_divstepsVt_row :
    nextSat (exec .divstepsVt (idle true
      { Regs.reset with eta := 3, f := canon primeP, g := ⟨0x8000000000000005, 0, 0, 0, 0⟩ } [])) (fun t =>
      t.regs.eta == BitVec.ofInt 64 (-3) &&
      t.regs.matrix == ⟨-0x1BFFFF950, 0x73384DF0, -0xBFFFFD23, 0xCCEFC49⟩) = true := by decide +kernel

/-- 95 §4 checks: η = −746, f0 = 2 gives F_EVEN, checked first. -/
theorem test_divstepsVt_f_even :
    nextSat (exec .divstepsVt (idle true
      { Regs.reset with eta := BitVec.ofInt 64 (-746), f := canon 2 } [])) (fun t =>
      t.status.fcode == .fEven) = true := by decide +kernel

/-- 95 §4, row g0 = 0xDEADBEEF: both word procedures. -/
theorem test_procedures_row :
    (ctProcedure (-1) 0x3FFFFFFEFFFFFC2F 0xDEADBEEF).matrix =
      ⟨0x84EE28C8, 0xE2661138, -0x59BF9627, -0x1D99F299⟩ ∧
    (vtProcedure (-1) 0x3FFFFFFEFFFFFC2F 0xDEADBEEF).matrix =
      ⟨0x84EE28C8, 0xE2661138, -0x59BF9627, -0x1D99F299⟩ := by decide +kernel

/-- 95 §5, row 1. -/
theorem test_updateDe_row :
    nextSat (exec .updateDe (idle true regsStep [])) (fun t =>
      t.regs.d == ⟨0x800001EB, 0, 0, 0x3FFFFF6000026400, BitVec.ofInt 64 (-0x81)⟩ &&
      t.regs.e == ⟨0x800001EA, 0, 0, 0x3FFFFFA000016F00, BitVec.ofInt 64 (-0x81)⟩) = true := by
  decide +kernel

/-- 95 §5 checks: MODINV62 = 0 and T = (1, 0, 0, 1) gives MODINFO_INVALID before T_DET. -/
theorem test_updateDe_check_order :
    nextSat (exec .updateDe (idle true
      { regsStep with modinv62 := 0, tu := 1, tv := 0, tq := 0, tr := 1 } [])) (fun t =>
      t.status.fcode == .modinfoInvalid) = true := by decide +kernel

/-- 95 §6, row 1. -/
theorem test_updateFg_row :
    nextSat (exec .updateFg (idle true regsStep [])) (fun t =>
      t.regs.f == ⟨5, 0, 0, 0x3FFFFEC00004C800, BitVec.ofInt 64 (-1)⟩ &&
      t.regs.g == ⟨3, 0, 0, 0x3FFFFF400002DE00, BitVec.ofInt 64 (-1)⟩) = true := by decide +kernel

/-- 95 §6 checks, row 1: LOWLIMB_NONZERO. -/
theorem test_updateFg_lowlimb :
    nextSat (exec .updateFg (idle true
      { regsStep with tu := 0x4000000000000000, tv := 0, tq := 0, tr := 1 } [])) (fun t =>
      t.status.fcode == .lowlimbNonzero) = true := by decide +kernel

/-- 95 §3 and P7: canon(−1) with a negative sign gives 1. -/
theorem test_normalize_negates :
    nextSat (exec .normalize (idle true { regsP2 with d := canon (-1), f := canon (-1) } [])) (fun t =>
      t.regs.d == canon 1) = true := by decide +kernel

/-- 95 §3: (−1, 1, 0, 0, 0), not canonical, gives (2^62 − 1, 0, 0, 0, 0). -/
theorem test_normalize_not_canonical :
    nextSat (exec .normalize (idle true { regsP2 with d := ⟨-1, 1, 0, 0, 0⟩ } [])) (fun t =>
      t.regs.d == ⟨0x3FFFFFFFFFFFFFFF, 0, 0, 0, 0⟩) = true := by decide +kernel

/-- 95 P1: MODINV of 2 modulo P. -/
theorem test_modinv_two :
    nextSat (exec .modinv (idle true regsP2 [])) (fun t =>
      t.regs.x == ⟨0x3FFFFFFF7FFFFE18, 0x3FFFFFFFFFFFFFFF, 0x3FFFFFFFFFFFFFFF, 0x3FFFFFFFFFFFFFFF, 0x7F⟩ &&
      t.regs.eta == 0xFFFFFFFFFFFFFF1B && t.regs.iter == 12) = true := by decide +kernel

/-- 95 §7: M = 15, x = 3, c = 1 gives FINAL_STATE. -/
theorem test_modinv_composite :
    nextSat (exec .modinv (idle true (inputs 15 0x2EEEEEEEEEEEEEEF 3) [])) (fun t =>
      t.status.fcode == .finalState) = true := by decide +kernel

/-- 95 P3: MODINV_VAR of 0xDEADBEEF modulo P. -/
theorem test_modinvVar_deadbeef :
    nextSat (exec .modinvVar (idle true (inputs primeP invP 0xDEADBEEF) [])) (fun t =>
      value t.regs.x == 0x9E18F66A7EA9DF72EE95BEC4452A14BFA013DE673814985382A20D56BCBDE348 &&
      t.regs.iter == 9 && t.regs.eta == BitVec.ofInt 64 (-41) && t.regs.tv.toInt == -0xA80000000000) = true := by
  decide +kernel

/-- 95 §7: M = 15, x = 5, c = 0 completes with X = 1. -/
theorem test_modinvVar_composite_release :
    nextSat (exec .modinvVar (idle false (inputs 15 0x2EEEEEEEEEEEEEEF 5) [])) (fun t =>
      t.regs.x == canon 1 && t.regs.f == canon 5 && t.status.done) = true := by decide +kernel

/-! ### Witnesses: for every statement with hypotheses, a state and operands that meet them -/

theorem witness_IllegalWordsRaiseIllegalCmd :
    (idle false regsP2 [.write 0x000 8 0x109]).Ready ∧ decode 0x109 = .error .reservedBits ∧
    decode 0x000 = .error .reservedOpcode ∧ decode 0x009 = .error .reservedOpcode ∧
    decode 0x0FF = .error .reservedOpcode := by decide +kernel

theorem witness_OnlyAlignedWordAccessesAreAccepted :
    isRefused (step (idle true regsP2 [.read 0x010 4])) ∧
    isRefused (step (idle true regsP2 [.write 0x00C 8 1])) ∧
    isRefused (step (idle true regsP2 [.read 0x200 8])) ∧
    nextSat (step (idle true regsP2 [.read 0x1F8 8])) (fun _ => true) := by decide +kernel

theorem witness_IgnoredAccessesChangeNothing :
    slotAt 0x048 = .reserved ∧ slotAt 0x1F8 = .reserved ∧ slotAt 0x078 = .reserved ∧
    nextSat (step (idle true regsP2 [.write 0x018 8 5])) (fun t => t == idle true regsP2 []) ∧
    nextSat (step (idle true regsP2 [.write 0x008 8 5])) (fun t => t == idle true regsP2 []) ∧
    nextSat (step (idle true regsP2 [.read 0x000 8])) (fun t => t.readData == [0]) ∧
    nextSat (step (running 7 regsP2 [.read 0x000 8])) (fun t => t.readData == [0]) := by decide +kernel

theorem witness_IdleWritesStoreAndReadsReturn :
    (idle true regsP2 [.write (regOffset (.limb .x 1)) 8 7]).Ready ∧
    (idle true regsP2 [.read (regOffset (.limb .g 4)) 8]).Ready ∧
    (idle true regsP2 [.read 0x1F8 8, .read 0x1F8 8]).Ready := by decide +kernel

theorem witness_AccessesWhileBusy :
    (running 7 regsP2 []).status.busy = true ∧ (running 7 regsP2 []).status.fault = false ∧
    slotAt 0x000 = .cmd ∧ slotAt 0x008 = .status ∧ slotAt 0x018 = .reg .iter ∧
    slotAt 0x010 = .reg .eta ∧ slotAt 0x1E0 = .reg (.limb .g 4) ∧ slotAt 0x1F8 = .reserved := by
  decide +kernel

theorem witness_AccessesAfterAFault :
    (faulted []).status.fault = true ∧ (faulted []).status.busy = false ∧
    regOffset (.limb .mod 4) = 0x0A0 ∧ regOffset (.limb .x 0) = 0x0C0 ∧
    nextSat (step (faulted [.write 0x000 8 1])) (fun t => t == faulted []) ∧
    nextSat (step (faulted [.read 0x000 8])) (fun t => t.readData == [0] && t.draws == 0) := by
  decide +kernel

theorem witness_AcceptanceOfACommandWord :
    (faulted [.write 0x000 8 7]).status.fault = true ∧
    (running 7 regsP2 [.write 0x000 8 7]).status.busy = true ∧
    (idle true regsP2 [.write 0x000 8 7]).Ready ∧ decode 7 = .ok .modinv ∧
    decode 9 = .error .reservedOpcode := by decide +kernel

theorem witness_ReleaseCommandsAlwaysComplete :
    (idle false Regs.reset []).status.checks = false ∧
    ruleOf false .modinv Regs.reset = .error .modinfoInvalid := by decide +kernel

theorem witness_FaultLastsUntilReset :
    (faulted [.reset]).Inv ∧ (faulted [.reset]).status.fault = true ∧
    nextSat (step (faulted [.reset])) (fun t => !t.status.fault) ∧
    (faulted [.write 0x000 8 1]).Inv ∧
    nextSat (step (faulted [.write 0x000 8 1])) (fun t => t.status.fault) := by decide +kernel

theorem witness_ResetFromAnyState :
    nextSat (step (running 7 regsStep [.reset])) (fun t => t.regs == Regs.reset && !t.status.busy) := by
  decide +kernel

theorem witness_CommandsRightAfterReset : (idle true Regs.reset []).regs = Regs.reset := rfl

theorem witness_StepRunsTheDecodedCommand :
    (running 7 regsP2 []).status.busy = true ∧ decode (fetchWord (running 7 regsP2 [])) = .ok .modinv ∧
    decode (fetchWord (running 1 regsP2 [.complete])) = .ok .init := by decide +kernel

theorem test_placed_command_runs_next :
    decodeTableWord 64 1 = some .init ∧
    nextSat (step ((idle true regsP2 []).withFetchWord 64 1)) (fun t =>
      t.regs.g == canon 2 && t.status.lastop == 1) := by decide +kernel

theorem witness_EveryStepKeepsTheInvariant :
    (running 7 regsP2 []).Inv ∧ nextSat (step (running 7 regsP2 [])) (fun t => t.status.done) := by
  decide +kernel

theorem witness_MachineGoesOn :
    (running 7 regsP2 [.read 0x008 8]).Inv ∧ Event.wf (.read 0x008 8) = true := by decide +kernel

theorem witness_OnlyTheHostWritesTheModulus :
    slotAt 0x0C0 = .reg (.limb .x 0) ∧
    nextSat (step (idle true regsP2 [.write 0x0C0 8 5])) (fun t => t.regs.mod == regsP2.mod) := by
  decide +kernel

theorem witness_RegistersHoldStillWhileBusy :
    (running 7 regsP2 [.read 0x010 8]).Inv ∧ (running 7 regsP2 [.write 0x010 8 0]).Inv ∧
    nextSat (step (running 7 regsP2 [.read 0x010 8])) (fun t => t.status.busy) ∧
    nextSat (step (running 7 regsP2 [.write 0x010 8 0])) (fun t => t.status.fcode == .busyWrite) := by
  decide +kernel

theorem witness_PoliteHostNeverFaultsOnAWrite :
    State.polite (running 7 regsP2 []) (.read 0x008 8) = true ∧
    State.polite (idle true regsP2 []) (.write 0x000 8 7) = true ∧
    nextSat (step (idle true regsP2 [.write 0x000 8 7])) (fun t => t.status.busy) := by decide +kernel

theorem witness_RunningCommandCompletesUnderPolling :
    (running 7 regsP2 [.read 0x008 8, .read 0x008 8]).Inv ∧
    (∀ ev ∈ (running 7 regsP2 [.read 0x008 8, .read 0x008 8]).script, ev = .read 0x008 8) := by
  decide +kernel

theorem witness_RacingWriteHasTwoOutcomes :
    (running 7 regsP2 [.complete, .write (regOffset .eta) 8 0]).Inv ∧
    decode (fetchWord (running 7 regsP2 [])) = .ok .modinv ∧
    nextSat (exec .modinv (running 7 regsP2 [])) (fun t => !t.status.fault) ∧
    (running 7 regsP2 [.write (regOffset .eta) 8 0, .complete]).Inv := by decide +kernel

theorem witness_FrameOfInitAndDivsteps :
    nextSat (exec .init (running 1 regsP2 [])) (fun t => !t.status.fault) ∧
    nextSat (exec .divstepsCt (running 2 regsStep [])) (fun t => !t.status.fault) ∧
    nextSat (exec .divstepsVt (running 3 regsStep [])) (fun t => !t.status.fault) := by decide +kernel

theorem witness_FrameOfUpdatesAndNormalize :
    nextSat (exec .updateDe (running 4 regsStep [])) (fun t => !t.status.fault) ∧
    nextSat (exec .updateFg (running 5 regsStep [])) (fun t => !t.status.fault) ∧
    nextSat (exec .normalize (running 6 regsStep [])) (fun t => !t.status.fault) := by decide +kernel

theorem witness_FrameOfDrivers :
    nextSat (exec .modinv (running 7 regsP2 [])) (fun t => !t.status.fault) ∧
    nextSat (exec .modinvVar (running 8 regsP2 [])) (fun t => !t.status.fault) := by decide +kernel

theorem witness_ResultDependsOnlyOnReads :
    (∀ c ∈ readsOf .divstepsCt, regsStep.get c = { regsStep with x := canon 99, tu := 5 }.get c) ∧
    nextSat (exec .divstepsCt (running 2 regsStep [])) (fun t => t.status.done) ∧
    nextSat (exec .divstepsCt (running 2 { regsStep with x := canon 99, tu := 5 } []))
      (fun t => t.status.done) := by decide +kernel

theorem witness_TopBitsOfModinv62AreIgnored :
    (0xE7C7F6E22DDACACF : Word).toNat % 2 ^ 62 = regsStep.modinv62.toNat % 2 ^ 62 ∧
    nextSat (exec .updateDe (running 4 regsStep [])) (fun t => t.status.done) := by decide +kernel

theorem witness_CanonIsTheCanonicalVector :
    Canonical (canon (-2 ^ 311)) ∧ value (canon (-2 ^ 311)) = -2 ^ 311 ∧
    Canonical (canon (2 ^ 311 - 1)) ∧ value (canon (2 ^ 311 - 1)) = 2 ^ 311 - 1 := by decide +kernel

theorem witness_CanonicalVectorsAreSignConsistent :
    Canonical (canon (-1)) ∧ Canonical (canon 0) ∧ ¬Canonical ⟨-1, 0, 0, 0, 0⟩ := by decide +kernel

theorem witness_InitResult :
    (InputsOk regsP2 ∧ InputsOk (inputs primeP invP (-primeP + 1))) ∧
    ¬ModinfoValid Regs.reset.mod Regs.reset.modinv62 ∧
    ModinfoValid (canon primeP) invP ∧ ¬XOk (canon primeP) (canon primeP) :=
  ⟨by decide +kernel, by decide +kernel, by decide +kernel, by decide +kernel⟩

theorem witness_DivstepCases :
    (⟨-1, 3, 5⟩ : DivTriple).f % 2 = 1 ∧ (⟨-1, 3, 5⟩ : DivTriple).g % 2 = 1 ∧
    (⟨0, -3, -5⟩ : DivTriple).f % 2 = 1 ∧ (⟨0, -3, -5⟩ : DivTriple).g % 2 = 1 ∧
    (⟨-1, 3, -4⟩ : DivTriple).g % 2 = 0 := by decide +kernel

theorem witness_DivstepCommandsResult :
    (regsStep.f.v0.toNat % 2 = 1 ∧ ∀ k ≤ 62,
      -745 ≤ (divsteps k (wordTriple regsStep.eta regsStep.f.v0 regsStep.g.v0)).eta ∧
        (divsteps k (wordTriple regsStep.eta regsStep.f.v0 regsStep.g.v0)).eta ≤ 745) ∧
    Regs.reset.f.v0.toNat % 2 = 0 ∧
    (canon 1).v0.toNat % 2 = 1 ∧
    (divsteps 1 (wordTriple (BitVec.ofInt 64 (-745)) 1 0)).eta < -745 ∧
    745 < (divsteps 0 (wordTriple 746 1 1)).eta := by decide +kernel

theorem witness_Divsteps62Properties :
    (0x3FFFFFFEFFFFFC2F : Word).toNat % 2 = 1 ∧
    (0xFFFFFFFEFFFFFC2F : Word).toNat % 2 ^ 62 = (0x3FFFFFFEFFFFFC2F : Word).toNat % 2 ^ 62 ∧
    primeP % 2 ^ 62 = ((0x3FFFFFFEFFFFFC2F : Word).toNat : Int) % 2 ^ 62 ∧
    (2 : Int) % 2 ^ 62 = ((2 : Word).toNat : Int) % 2 ^ 62 := by decide +kernel

theorem witness_CtProcedureComputesDivsteps62 :
    (1 : Word).toNat % 2 = 1 ∧ -745 ≤ (BitVec.ofInt 64 (-745)).toInt ∧
    (BitVec.ofInt 64 745).toInt ≤ 745 := by decide +kernel

theorem witness_VtProcedureComputesDivsteps62 :
    (0xFFFFFFFFFFFFFFFF : Word).toNat % 2 = 1 ∧ -745 ≤ (0 : Word).toInt ∧ (0 : Word).toInt ≤ 745 := by
  decide +kernel

theorem witness_NormalizeResult :
    ModinfoValid regsP2.mod regsP2.modinv62 ∧ ResidueOk (canon (-2 * primeP + 1)) regsP2.mod ∧
    ResidueOk (canon (primeP - 1)) regsP2.mod := by decide +kernel

theorem witness_NormalizeChecks :
    ¬ModinfoValid Regs.reset.mod Regs.reset.modinv62 ∧
    ModinfoValid regsP2.mod regsP2.modinv62 ∧ ¬ResidueOk (canon primeP) regsP2.mod ∧
    ¬ResidueOk (canon (-2 * primeP)) regsP2.mod ∧ ¬ResidueOk ⟨-5, 0, 0, 0, 0⟩ regsP2.mod :=
  ⟨by decide +kernel, by decide +kernel, by decide +kernel, by decide +kernel, by decide +kernel⟩

theorem witness_NormalizeStaysInSixtyFourBits :
    ModinfoValid regsP2.mod invP ∧ ResidueOk ⟨-1, 1, 0, 0, 0⟩ regsP2.mod := by decide +kernel

theorem witness_UpdateDeResult :
    ModinfoValid regsStep.mod regsStep.modinv62 ∧ TBoundOk regsStep.matrix ∧
    regsStep.matrix.det = 2 ^ 62 ∧ ResidueOk regsStep.d regsStep.mod ∧
    ResidueOk regsStep.e regsStep.mod := by decide +kernel

theorem witness_UpdateDeChecks :
    ¬ModinfoValid regsStep.mod 0 ∧ ModinfoValid regsStep.mod invP ∧
    ¬TBoundOk ⟨0x4000000000000000, 1, 0, 1⟩ ∧ TBoundOk ⟨1, 0, 0, 1⟩ ∧
    (⟨1, 0, 0, 1⟩ : IntMatrix).det ≠ 2 ^ 62 ∧ (⟨0x4000000000000000, 0, 0, 1⟩ : IntMatrix).det = 2 ^ 62 ∧
    TBoundOk ⟨0x4000000000000000, 0, 0, 1⟩ ∧ ¬ResidueOk (canon primeP) regsStep.mod := by decide +kernel

theorem witness_UpdateDeStaysInAccumulator :
    ModinfoValid regsStep.mod invP ∧ ResidueOk regsStep.d regsStep.mod ∧
    ResidueOk regsStep.e regsStep.mod ∧
    ((regsStep.matrix.u.natAbs : Int) + regsStep.matrix.v.natAbs ≤ 2 ^ 62) := by decide +kernel

theorem witness_UpdateFgResult :
    TBoundOk regsStep.matrix ∧ regsStep.matrix.det = 2 ^ 62 ∧ LimbsBounded regsStep.f ∧
    LimbsBounded regsStep.g ∧
    (regsStep.matrix.u * regsStep.f.v0.toInt + regsStep.matrix.v * regsStep.g.v0.toInt) % 2 ^ 62 = 0 ∧
    (regsStep.matrix.q * regsStep.f.v0.toInt + regsStep.matrix.r * regsStep.g.v0.toInt) % 2 ^ 62 = 0 ∧
    regsStep.f.v0.toNat % 2 = 1 ∧
    (divsteps62 (-1) regsStep.f.v0 regsStep.g.v0).2 = regsStep.matrix := by decide +kernel

theorem witness_UpdateFgChecks :
    ¬TBoundOk ⟨0x4000000000000000, 1, 0, 1⟩ ∧ TBoundOk ⟨0x4000000000000000, 0, 0, 2⟩ ∧
    (⟨0x4000000000000000, 0, 0, 2⟩ : IntMatrix).det ≠ 2 ^ 62 ∧
    TBoundOk ⟨0x4000000000000000, 0, 0, 1⟩ ∧ (⟨0x4000000000000000, 0, 0, 1⟩ : IntMatrix).det = 2 ^ 62 ∧
    ¬LimbsBounded ⟨0, 0, 0x4000000000000000, 0, 0⟩ ∧ LimbsBounded (canon primeP) ∧
    LimbsBounded (canon 2) ∧ (0 * (canon primeP).v0.toInt + 1 * (canon 2).v0.toInt) % 2 ^ 62 ≠ 0 := by
  decide +kernel

theorem witness_IterationIsThreeCommands :
    (iterateRule divstepsCtRule regsStep).isOk = true ∧ ¬UnitStart regsStep := by decide +kernel

/-- The premise at both ends of the moduli, 1 and P, and both ends of the iterations. -/
theorem witness_DriverInvariants :
    InputsOk (inputs 1 1 0) ∧ InputsOk regsP2 ∧ (initRule (inputs 1 1 0)).isOk = true ∧
    ((initRule regsP2) >>= iterations divstepsVtRule 12).isOk = true := by decide +kernel

/-- A register file after INIT meets the invariant of boundary 0, here under the modulus 1. -/
theorem witness_DriverInvariants_step : DriverInv (inputs 1 1 0)
    0 { inputs 1 1 0 with e := Limbs.one, f := Limbs.one, eta := BitVec.ofInt 64 (-1) } := by
  constructor <;> decide +kernel

/-- R1, R108 item 5 with M = 1, by hand: x = 0, so X = 0. -/
theorem witness_ModulusOneGivesZero :
    InputsOk (inputs 1 1 0) ∧ value (inputs 1 1 0).mod = 1 ∧
    nextSat (exec .modinv (idle true (inputs 1 1 0) [])) (fun t =>
      t.status.done && t.regs.x == Limbs.zero && t.regs.e == Limbs.zero && t.regs.iter == 12) ∧
    nextSat (exec .modinvVar (idle false (inputs 1 1 0) [])) (fun t =>
      t.status.done && t.regs.x == Limbs.zero && t.regs.e == Limbs.zero && t.regs.iter == 1) ∧
    nextSat (exec .updateDe (idle true { inputs 1 1 0 with
      e := Limbs.one, f := Limbs.one, tu := 0x4000000000000000, tr := 1 } [])) (fun t =>
      t.status.fcode == .operandRange) := by decide +kernel

theorem witness_ModinvEndsForEveryInput :
    InputsOk (inputs primeP invP (primeP - 1)) ∧ InputsOk (inputs 1 1 0) := by decide +kernel

/-- 62 divsteps reach g = 0 for these small moduli, so 744 do. -/
theorem suffices_of_first_matrix {r : Regs}
    (h : (divsteps 62 ⟨-1, value r.mod, value r.x⟩).g = 0) : DivstepsSuffice r :=
  divsteps_g_zero_of_le (by decide) h

theorem witness_ModinvComputesTheInverse :
    InputsOk (inputs 7 0x2DB6DB6DB6DB6DB7 2) ∧
    DivstepsSuffice (inputs 7 0x2DB6DB6DB6DB6DB7 2) ∧
    Int.gcd (value (inputs 7 0x2DB6DB6DB6DB6DB7 2).x) (value (inputs 7 0x2DB6DB6DB6DB6DB7 2).mod) = 1 :=
  ⟨by decide +kernel, suffices_of_first_matrix (by decide +kernel), by decide +kernel⟩

theorem witness_ModinvVarComputesTheInverse :
    InputsOk (inputs 7 0x2DB6DB6DB6DB6DB7 (-6)) ∧
    DivstepsSuffice (inputs 7 0x2DB6DB6DB6DB6DB7 (-6)) ∧
    Int.gcd (value (inputs 7 0x2DB6DB6DB6DB6DB7 (-6)).x) (value (inputs 7 0x2DB6DB6DB6DB6DB7 (-6)).mod) =
      1 :=
  ⟨by decide +kernel, suffices_of_first_matrix (by decide +kernel), by decide +kernel⟩

theorem witness_InverseOfZeroIsZero :
    ModinfoValid (inputs 3 0x2AAAAAAAAAAAAAAB 0).mod (inputs 3 0x2AAAAAAAAAAAAAAB 0).modinv62 ∧
    ModinfoValid (inputs 1 1 0).mod (inputs 1 1 0).modinv62 ∧ (inputs 1 1 0).x = Limbs.zero ∧
    (inputs 3 0x2AAAAAAAAAAAAAAB 0).x = Limbs.zero := by decide +kernel

theorem witness_CompositeModulusResult :
    InputsOk (inputs 15 0x2EEEEEEEEEEEEEEF 3) ∧ DivstepsSuffice (inputs 15 0x2EEEEEEEEEEEEEEF 3) ∧
    value (inputs 15 0x2EEEEEEEEEEEEEEF 3).x ≠ 0 ∧
    1 < Int.gcd (value (inputs 15 0x2EEEEEEEEEEEEEEF 3).x) (value (inputs 15 0x2EEEEEEEEEEEEEEF 3).mod) :=
  ⟨by decide +kernel, suffices_of_first_matrix (by decide +kernel), by decide +kernel, by decide +kernel⟩

theorem witness_DriversAgree : (modinvVarRule true regsP2).isOk = true := by decide +kernel

theorem witness_CheckedDriversReturnInverses :
    nextSat (exec .modinvVar (idle true regsP2 [])) (fun t => t.status.done) ∧
    nextSat (exec .modinv (idle true (inputs primeP invP 0) [])) (fun t => t.status.done) := by
  decide +kernel

/-- `wr STATUS, −1` and `rd CMD` at the offsets of R41, the number in two's complement (R68). -/
theorem test_script_lines :
    wr .status (imm (-1)) = [.write 0x008 8 0xFFFFFFFFFFFFFFFF] ∧ rd .cmd = [.read 0x000 8] := by
  simp [wr, rd, memWrite, memRead, statusOffset, cmdOffset, imm]

theorem witness_ScriptLinesAreAccesses :
    ¬(Config.engineBase ≤ Config.engineBase + 0x200 ∧
      Config.engineBase + 0x200 < Config.engineBase + 0x200) := by omega

theorem witness_Wr62LoadsTheCanonicalLimbs :
    (idle true regsP2 (wr62 .x (-1) ++ [])).Ready := by decide +kernel

end Sys2Proof.Tests
end

section
/-! SUPPORT. Canonical limb vectors (00_scope.md R16, R17; 10_state.md R24): the value of five limbs, the range of the
canonical vectors, and canon(n) as the one of value n. -/

namespace Sys2Proof.Machine

/-- A digit below a multiple of 2^62 is its low 62 bits. -/
theorem low62_digit_add {d : Int} (hd : LimbDigit d) (t : Int) : low62 (d + radix * t) = d := by
  obtain ⟨hlo, hhi⟩ := hd
  simp only [low62, radix] at *
  omega

/-- The arithmetic shift by 62 drops a digit. -/
theorem sar62_digit_add {d : Int} (hd : LimbDigit d) (t : Int) : sar62 (d + radix * t) = t := by
  obtain ⟨hlo, hhi⟩ := hd
  simp only [sar62, radix] at *
  omega

/-- Writing a register's own limbs back gives the register (R10). -/
@[simp] theorem ints_words (V : Limbs) : V.ints.words = V := by
  simp [Limbs.ints, IntLimbs.words]

@[simp] theorem zero_ints : Limbs.zero.ints = ⟨0, 0, 0, 0, 0⟩ := by decide

@[simp] theorem one_ints : Limbs.one.ints = ⟨1, 0, 0, 0, 0⟩ := by decide

theorem canon_zero : canon 0 = Limbs.zero := by decide

theorem canon_one : canon 1 = Limbs.one := by decide

/-- The sum of R16, out of the model's Horner form. -/
theorem value_eq_sum (V : Limbs) :
    value V = V.v0.toInt + V.v1.toInt * 2 ^ 62 + V.v2.toInt * 2 ^ 124 + V.v3.toInt * 2 ^ 186 +
      V.v4.toInt * 2 ^ 248 := by
  simp only [value, Limbs.ints, IntLimbs.total, radix]
  ring

/-- The value of a canonical vector lies within one 2^248 of its top limb. -/
theorem Canonical.value_bounds {V : Limbs} (hV : Canonical V) :
    V.v4.toInt * 2 ^ 248 ≤ value V ∧ value V < (V.v4.toInt + 1) * 2 ^ 248 := by
  obtain ⟨h0, h1, h2, h3⟩ := hV
  rw [value_eq_sum]
  simp only [LimbDigit, radix] at *
  omega

/-- The canonical vectors' values are those of 311 bits and a sign (R17). -/
theorem Canonical.value_range {V : Limbs} (hV : Canonical V) : -2 ^ 311 ≤ value V ∧ value V < 2 ^ 311 := by
  have hb := hV.value_bounds
  have hlo := BitVec.le_toInt V.v4
  have hhi := BitVec.toInt_lt (x := V.v4)
  norm_num at hb hlo hhi ⊢
  omega

/-- A canonical vector is sign-consistent (R24). -/
theorem Canonical.signConsistent {V : Limbs} (hV : Canonical V) : SignConsistent V := by
  have hb := hV.value_bounds
  simp only [SignConsistent]
  omega

/-- canon(n) is the carry propagation of n standing in limb 0 (R17). -/
theorem canon_eq_propagate (n : Int) : canon n = (propagate ⟨n, 0, 0, 0, 0⟩).words := by
  simp [canon, propagate]

/-- In the range of R17 no limb of canon(n) leaves the signed 64-bit range. -/
theorem canon_ints {n : Int} (hlo : -2 ^ 311 ≤ n) (hhi : n < 2 ^ 311) :
    (canon n).ints = propagate ⟨n, 0, 0, 0, 0⟩ := by
  have fits {d : Int} (hd : LimbDigit d) : -2 ^ 63 ≤ d ∧ d < 2 ^ 63 := by
    simp only [LimbDigit, radix] at hd
    omega
  obtain ⟨h0, h1, h2, h3⟩ := propagate_digits ⟨n, 0, 0, 0, 0⟩
  have htop : -2 ^ 63 ≤ (propagate ⟨n, 0, 0, 0, 0⟩).v4 ∧ (propagate ⟨n, 0, 0, 0, 0⟩).v4 < 2 ^ 63 := by
    simp only [propagate, sar62, radix]
    norm_num at hlo hhi ⊢
    omega
  rw [canon_eq_propagate, words_ints (fits h0) (fits h1) (fits h2) (fits h3) htop]

theorem canonical_canon {n : Int} (hlo : -2 ^ 311 ≤ n) (hhi : n < 2 ^ 311) : Canonical (canon n) := by
  have h := propagate_digits ⟨n, 0, 0, 0, 0⟩
  rw [← canon_ints hlo hhi] at h
  exact h

theorem value_canon {n : Int} (hlo : -2 ^ 311 ≤ n) (hhi : n < 2 ^ 311) : value (canon n) = n := by
  rw [value, canon_ints hlo hhi, propagate_total]
  simp [IntLimbs.total]

/-- The only canonical vector of a value is its canon (R17). -/
theorem Canonical.canon_value {V : Limbs} (hV : Canonical V) : canon (value V) = V := by
  obtain ⟨h0, h1, h2, h3⟩ := hV
  calc canon (value V) = V.ints.words := by
        simp only [canon, value, IntLimbs.total, Limbs.ints, low62_digit_add h0, sar62_digit_add h0,
          low62_digit_add h1, sar62_digit_add h1, low62_digit_add h2, sar62_digit_add h2,
          low62_digit_add h3, sar62_digit_add h3]
    _ = V := ints_words V

/-- Settles O33: canon is carry propagation from limb 0, and a canonical vector's limbs are the digits of its value. -/
theorem canonIsTheCanonicalVector : Obligations.CanonIsTheCanonicalVector := by
  refine ⟨fun V => ⟨?_, Iff.rfl⟩, fun n hlo hhi => ⟨canonical_canon hlo hhi, value_canon hlo hhi⟩,
    fun V hV => ⟨hV.canon_value, hV.value_range⟩⟩
  simp [Canonical, LimbDigit, radix]

/-- Settles O34. -/
theorem canonicalVectorsAreSignConsistent : Obligations.CanonicalVectorsAreSignConsistent :=
  fun V => ⟨value_eq_sum V, Canonical.signConsistent⟩

end Sys2Proof.Machine
end

section
/-! SUPPORT. The end of a command, in the terms of the statements (60_exceptions.md R65, R113, R114). -/

namespace Sys2Proof.Machine

theorem raiseFault_faultedFrom (code : FaultCode) (s : State) :
    State.FaultedFrom code s (s.raiseFault code) :=
  ⟨rfl, ⟨unspecifyRegs_get faultedRegs_nodup s.draws s.regs,
    fun _ hc => unspecifyRegs_other hc s.draws s.regs⟩, rfl, rfl, rfl⟩

theorem finishUnspecified_unspecifiedDone {cells : List Reg} (hn : cells.Nodup) (s : State) :
    State.UnspecifiedDone cells s (s.finishUnspecified cells) :=
  ⟨rfl, ⟨unspecifyRegs_get hn s.draws s.regs, fun _ hc => unspecifyRegs_other hc s.draws s.regs⟩,
    rfl, rfl, rfl⟩

/-- A command whose rule answers completes with the rule's registers (R65). -/
theorem exec_of_rule_ok {i : Instr} {s : State} {r : Regs} (h : ruleOf s.status.checks i s.regs = .ok r) :
    exec i s = .next (s.finish r) := by
  rw [exec_eq_conclude, h]
  rfl

/-- A command whose rule fails a check leaves what R112 and R114 say. -/
theorem exec_of_rule_error {i : Instr} {s : State} {code : FaultCode}
    (h : ruleOf s.status.checks i s.regs = .error code) :
    ∃ t, exec i s = .next t ∧ State.CheckFailed code (writesOf i) s t := by
  refine ⟨s.conclude (writesOf i) (.error code), by rw [exec_eq_conclude, h], fun hc => ?_, fun hc => ?_⟩
  · simpa [State.conclude, hc] using raiseFault_faultedFrom code s
  · simpa [State.conclude, hc] using finishUnspecified_unspecifiedDone (writesOf_nodup i) s

end Sys2Proof.Machine
end

section
/-! SUPPORT. A driver whose g is 0 (42_matrix_update.md R86, corner cases; 43_driver.md R104): every divstep takes the
third case, the matrix is (2^62, 0, 0, 1), and UPDATE_FG keeps F and G. -/

namespace Sys2Proof.Machine

/-- The matrix of 62 divsteps from g = 0. -/
def haltMatrix : IntMatrix := ⟨radix, 0, 0, 1⟩

/-- A divstep with g = 0 only lowers η (R76, third case). -/
theorem divstep_of_g_zero (eta f : Int) : divstep ⟨eta, f, 0⟩ = ⟨eta - 1, f, 0⟩ := by
  simp [divstep]

theorem divsteps_of_g_zero (n : Nat) (eta f : Int) : divsteps n ⟨eta, f, 0⟩ = ⟨eta - n, f, 0⟩ := by
  induction n generalizing eta with
  | zero => simp [divsteps]
  | succ n ih =>
    rw [divsteps, divstep_of_g_zero, ih]
    push_cast
    ring_nf

theorem divstepMatrix_of_g_zero (n : Nat) (eta f : Int) (T : IntMatrix) :
    divstepMatrix n ⟨eta, f, 0⟩ T = ⟨2 ^ n * T.u, 2 ^ n * T.v, T.q, T.r⟩ := by
  induction n generalizing eta T with
  | zero => simp [divstepMatrix]
  | succ n ih =>
    have hstep : stepMatrix ⟨eta, f, 0⟩ T = ⟨2 * T.u, 2 * T.v, T.q, T.r⟩ := by simp [stepMatrix]
    rw [divstepMatrix, divstep_of_g_zero, hstep, ih]
    ring_nf

theorem etaStaysOk_of_g_zero (n : Nat) {eta : Int} (f : Int) (hlo : -etaBound + n ≤ eta)
    (hhi : eta ≤ etaBound) : etaStaysOk n ⟨eta, f, 0⟩ = true := by
  induction n generalizing eta with
  | zero => simpa [etaStaysOk, etaOk] using ⟨hlo, hhi⟩
  | succ n ih =>
    push_cast at hlo
    rw [etaStaysOk, divstep_of_g_zero, ih (by omega) (by omega)]
    simp only [etaOk, Bool.and_true, decide_eq_true_eq]
    omega

/-- Both divstep commands with F odd, G's low limb 0 and η far enough from its bound. -/
theorem divstepsRule_of_g_zero {r : Regs} (hf : r.f.v0.toNat % 2 = 1) (hg : r.g.v0 = 0)
    (hlo : -683 ≤ r.eta.toInt) (hhi : r.eta.toInt ≤ 745) :
    divstepsRule r = .ok (r.setDivsteps (r.eta.toInt - 62, haltMatrix)) := by
  have htriple : wordTriple r.eta r.f.v0 r.g.v0 = ⟨r.eta.toInt, r.f.v0.toNat, 0⟩ := by
    simp [wordTriple, hg]
  have heta : etaStaysOk stepsPerMatrix (wordTriple r.eta r.f.v0 r.g.v0) = true := by
    rw [htriple]
    exact etaStaysOk_of_g_zero _ _ (by simp only [etaBound, stepsPerMatrix]; omega) hhi
  have hres : divsteps62 r.eta r.f.v0 r.g.v0 = (r.eta.toInt - 62, haltMatrix) := by
    rw [divsteps62, htriple, divsteps_of_g_zero, divstepMatrix_of_g_zero]
    simp [stepsPerMatrix, IntMatrix.one, haltMatrix, radix]
  rw [divstepsRule_eq, if_pos hf, if_pos heta, hres]

@[simp] theorem setDivsteps_haltMatrix_matrix (r : Regs) (eta : Int) :
    (r.setDivsteps (eta, haltMatrix)).matrix = haltMatrix := by
  have htop : (BitVec.ofInt 64 radix).toInt = radix := by decide
  simp [Regs.setDivsteps, Regs.matrix, haltMatrix, htop]

theorem setDivsteps_eta_toInt (r : Regs) {eta : Int} (T : IntMatrix) (hlo : -745 ≤ eta) (hhi : eta ≤ 745) :
    (r.setDivsteps (eta, T)).eta.toInt = eta :=
  BitVec.toInt_ofInt_eq_self (by decide) (by omega) (by omega)

theorem haltMatrix_tBoundOk : TBoundOk haltMatrix := by decide

theorem haltMatrix_det : haltMatrix.det = radix := by decide

/-- Shifting out five limbs times 2^62 gives the limbs back when the lower four are digits. -/
theorem shiftOut_radix_mul {a : IntLimbs} (h0 : LimbDigit a.v0) (h1 : LimbDigit a.v1)
    (h2 : LimbDigit a.v2) (h3 : LimbDigit a.v3) :
    shiftOut ⟨radix * a.v0, radix * a.v1, radix * a.v2, radix * a.v3, radix * a.v4⟩ = a := by
  have hstart : sar62 (radix * a.v0) = a.v0 := by simp [sar62, radix]
  simp only [shiftOut, hstart, add_comm (radix * _), low62_digit_add h0, sar62_digit_add h0,
    low62_digit_add h1, sar62_digit_add h1, low62_digit_add h2, sar62_digit_add h2,
    low62_digit_add h3, sar62_digit_add h3]

/-- UPDATE_FG with the matrix of g = 0 changes nothing. -/
theorem updateFgRule_haltMatrix {r : Regs} (hT : r.matrix = haltMatrix) (hf : Canonical r.f)
    (hb : LimbsBounded r.f) (hg : r.g = Limbs.zero) : updateFgRule r = .ok r := by
  have hrowF : fgRow haltMatrix.u haltMatrix.v r.f.ints r.g.ints =
      ⟨radix * r.f.ints.v0, radix * r.f.ints.v1, radix * r.f.ints.v2, radix * r.f.ints.v3,
        radix * r.f.ints.v4⟩ := by
    simp [fgRow, combine, haltMatrix]
  have hrowG : fgRow haltMatrix.q haltMatrix.r r.f.ints r.g.ints = ⟨0, 0, 0, 0, 0⟩ := by
    simp [fgRow, combine, haltMatrix, hg]
  obtain ⟨h0, h1, h2, h3⟩ := hf
  have hF : (shiftOut (fgRow haltMatrix.u haltMatrix.v r.f.ints r.g.ints)).words = r.f := by
    rw [hrowF, shiftOut_radix_mul h0 h1 h2 h3, ints_words]
  have hG : (shiftOut (fgRow haltMatrix.q haltMatrix.r r.f.ints r.g.ints)).words = r.g := by
    rw [hrowG, hg]
    decide
  have hlow : low62 (fgRow haltMatrix.u haltMatrix.v r.f.ints r.g.ints).v0 = 0 ∧
      low62 (fgRow haltMatrix.q haltMatrix.r r.f.ints r.g.ints).v0 = 0 := by
    simp [hrowF, hrowG, low62]
  have hgb : LimbsBounded r.g := by rw [hg]; decide
  rw [updateFgRule_eq, hT, if_pos haltMatrix_tBoundOk, if_pos haltMatrix_det, if_pos ⟨hb, hgb⟩, if_pos hlow,
    hF, hG]

end Sys2Proof.Machine
end

section
/-! SUPPORT. The drivers under the modulus 1 (00_scope.md R1; 43_driver.md R108; log 18). -/

namespace Sys2Proof.Machine

/-- With M = 1 the register MOD holds the limbs of 1, and the only X in range is 0. -/
theorem mod_x_of_modulus_one {r : Regs} (hin : InputsOk r) (hM : value r.mod = 1) :
    r.mod = Limbs.one ∧ r.x = Limbs.zero := by
  obtain ⟨⟨⟨hcm, -⟩, -⟩, hcx, hlo, hhi⟩ := hin
  have hx : value r.x = 0 := by omega
  exact ⟨by rw [← hcm.canon_value, hM, canon_one],
    by rw [← hcx.canon_value, hx, canon_zero]⟩

/-- The registers of a driver at the boundary k under the modulus 1: INIT's (d, e) = (0, 1) at 0, and (0, 0) from the
first iteration on. -/
structure UnitBoundary (k : Nat) (r : Regs) : Prop where
  modinfo : ModinfoValid r.mod r.modinv62
  mod : r.mod = Limbs.one
  x : r.x = Limbs.zero
  d : r.d = Limbs.zero
  e : r.e = Limbs.zero ∨ (k = 0 ∧ r.e = Limbs.one)
  f : r.f = Limbs.one
  g : r.g = Limbs.zero
  eta : r.eta.toInt = -1 - 62 * k

/-- INIT leaves the boundary 0. -/
theorem initRule_of_modulus_one {r : Regs} (hin : InputsOk r) (hM : value r.mod = 1) :
    ∃ r1, initRule r = .ok r1 ∧ UnitBoundary 0 r1 ∧ r1.e = Limbs.one := by
  obtain ⟨hm, hx⟩ := mod_x_of_modulus_one hin hM
  obtain ⟨hinfo, hxok⟩ := hin
  refine ⟨_, by rw [initRule_eq, if_pos hinfo, if_pos hxok], ?_, rfl⟩
  have heta : (BitVec.ofInt 64 (-1)).toInt = -1 - 62 * ((0 : Nat) : Int) := by decide
  exact ⟨hinfo, hm, hx, rfl, .inr ⟨rfl, rfl⟩, hm, hx, heta⟩

section Rows
variable {inv : Int} {e : Limbs} (he : e = Limbs.zero ∨ e = Limbs.one)
include he

/-- The D row of UPDATE_DE at a boundary is 0: d is 0 and needs no correction. -/
theorem deRow_d_of_modulus_one :
    deRow haltMatrix.u haltMatrix.v Limbs.zero.ints e.ints Limbs.one.ints inv = ⟨0, 0, 0, 0, 0⟩ := by
  rcases he with rfl | rfl <;>
    simp [deRow, combine, correction, correctionStart, andMask, signMask, low62, haltMatrix]

/-- The E row of UPDATE_DE at a boundary is 0: under the modulus 1 the correction of e = 1 is −1. -/
theorem deRow_e_of_modulus_one (hinv : inv % radix = 1) :
    deRow haltMatrix.q haltMatrix.r Limbs.zero.ints e.ints Limbs.one.ints inv = ⟨0, 0, 0, 0, 0⟩ := by
  rcases he with rfl | rfl <;>
    simp [deRow, combine, correction, correctionStart, andMask, signMask, low62, haltMatrix, hinv]

end Rows

/-- UPDATE_DE in a driver at a boundary leaves (d, e) = (0, 0). -/
theorem updateDeDriver_of_modulus_one {r : Regs} (hT : r.matrix = haltMatrix)
    (hinfo : ModinfoValid r.mod r.modinv62) (hm : r.mod = Limbs.one) (hd : r.d = Limbs.zero)
    (he : r.e = Limbs.zero ∨ r.e = Limbs.one) :
    updateDeDriver r = .ok { r with d := Limbs.zero, e := Limbs.zero } := by
  have hok : (ResidueOk r.d r.mod ∧ ResidueOk r.e r.mod) ∨ UnitStart r := by
    rcases he with he | he
    · left
      rw [hd, he, hm]
      decide
    · right
      exact ⟨by rw [hm]; decide, hd, he⟩
  have hinv : (r.modinv62.toNat : Int) % radix = 1 := by
    obtain ⟨-, -, -, -, h⟩ := hinfo
    simpa [hm, Limbs.one] using h
  have hzero : (shiftOut ⟨0, 0, 0, 0, 0⟩).words = Limbs.zero := by decide
  rw [updateDeDriver, updateDeWith_eq, hT, if_pos hinfo, if_pos haltMatrix_tBoundOk, if_pos haltMatrix_det,
    if_pos hok, hd, hm, deRow_d_of_modulus_one he, deRow_e_of_modulus_one he hinv, if_pos (by decide), hzero]

/-- The divsteps of an iteration at a boundary. -/
theorem UnitBoundary.divstepsRule_eq {k : Nat} {r : Regs} (h : UnitBoundary k r) (hk : k < 12) :
    divstepsRule r = .ok (r.setDivsteps (r.eta.toInt - 62, haltMatrix)) := by
  have heta := h.eta
  exact divstepsRule_of_g_zero (by rw [h.f]; decide) (by rw [h.g]; decide) (by omega) (by omega)

/-- An iteration leads from each boundary to the next. -/
theorem UnitBoundary.iterate {k : Nat} {r : Regs} (h : UnitBoundary k r) (hk : k < 12) :
    ∃ r', iterateRule divstepsRule r = .ok r' ∧ UnitBoundary (k + 1) r' := by
  have heta := h.eta
  have hcanonical : Canonical r.f := by rw [h.f]; decide
  have hbounded : LimbsBounded r.f := by rw [h.f]; decide
  have hde := updateDeDriver_of_modulus_one (r := r.setDivsteps (r.eta.toInt - 62, haltMatrix))
    (by simp) h.modinfo h.mod h.d (h.e.imp id And.right)
  have hfg := updateFgRule_haltMatrix
    (r := { r.setDivsteps (r.eta.toInt - 62, haltMatrix) with d := Limbs.zero, e := Limbs.zero })
    (setDivsteps_haltMatrix_matrix r _) hcanonical hbounded h.g
  refine ⟨_, iterateRule_eq_ok.2 ⟨_, _, _, h.divstepsRule_eq hk, hde, hfg, rfl⟩,
    h.modinfo, h.mod, h.x, rfl, .inl rfl, h.f, h.g, ?_⟩
  have hnew := setDivsteps_eta_toInt r (eta := r.eta.toInt - 62) haltMatrix (by omega) (by omega)
  push_cast
  refine Eq.trans hnew ?_
  omega

theorem UnitBoundary.iterations {r : Regs} (h : UnitBoundary 0 r) {n : Nat} (hn : n ≤ 12) :
    ∃ r', iterations divstepsRule n r = .ok r' ∧ UnitBoundary n r' := by
  induction n with
  | zero => exact ⟨r, rfl, h⟩
  | succ n ih =>
    obtain ⟨r1, h1, hb⟩ := ih (by omega)
    obtain ⟨r2, h2, hb'⟩ := hb.iterate (by omega)
    exact ⟨r2, by rw [iterations_succ_last, h1]; exact h2, hb'⟩

/-- The end of a driver changes nothing: the final state is one that FINAL_STATE admits, and d = 0 is normalized. -/
theorem UnitBoundary.driverEnd_eq {k : Nat} {r : Regs} (h : UnitBoundary k r) (checks : Bool) :
    driverEnd checks r = .ok r := by
  have hfinal : FinalOk r := ⟨by rw [h.g]; decide, .inl (by rw [h.f]; decide)⟩
  have hres : ResidueOk r.d r.mod := by rw [h.d, h.mod]; decide
  have hnorm : normalizeRule r = .ok r := by
    have hd : (normalize62 r.d.ints r.f.v4.toInt r.mod.ints).words = r.d := by
      rw [h.d, h.f, h.mod]
      decide
    rw [normalizeRule_eq, if_pos h.modinfo, if_pos hres, hd]
  have hx : { r with x := r.d } = r := congrArg (fun v => { r with x := v }) (h.d.trans h.x.symm)
  rw [Machine.driverEnd_eq, if_pos fun _ => hfinal, hnorm]
  exact congrArg Except.ok hx

/-- MODINV runs its 12 iterations (R100). -/
theorem modinvRule_of_modulus_one {r : Regs} (hin : InputsOk r) (hM : value r.mod = 1) (checks : Bool) :
    ∃ r', modinvRule checks r = .ok r' ∧ UnitBoundary 12 r' := by
  obtain ⟨r1, h1, hb, -⟩ := initRule_of_modulus_one hin hM
  obtain ⟨r2, h2, hb'⟩ := hb.iterations le_rfl
  exact ⟨r2, bind_eq_ok.2 ⟨r1, h1, bind_eq_ok.2 ⟨r2, h2, hb'.driverEnd_eq checks⟩⟩, hb'⟩

/-- MODINV_VAR leaves its loop after one iteration (R101). -/
theorem modinvVarRule_of_modulus_one {r : Regs} (hin : InputsOk r) (hM : value r.mod = 1) (checks : Bool) :
    ∃ r', modinvVarRule checks r = .ok r' ∧ UnitBoundary 1 r' := by
  obtain ⟨r1, h1, hb, -⟩ := initRule_of_modulus_one hin hM
  obtain ⟨r2, h2, hb'⟩ := hb.iterate (by decide)
  have hloop : vtLoop maxIters r1 = .ok r2 :=
    bind_eq_ok.2 ⟨r2, h2, if_pos hb'.g⟩
  exact ⟨r2, bind_eq_ok.2 ⟨r1, h1, bind_eq_ok.2 ⟨r2, hloop, hb'.driverEnd_eq checks⟩⟩, hb'⟩

/-- The registers that R108 speaks of, past the first iteration. -/
theorem UnitBoundary.result {k : Nat} {r : Regs} (h : UnitBoundary (k + 1) r) :
    r.x = Limbs.zero ∧ r.d = Limbs.zero ∧ r.e = Limbs.zero ∧ r.f = Limbs.one ∧ r.g = Limbs.zero :=
  ⟨h.x, h.d, h.e.resolve_right fun hk => Nat.succ_ne_zero k hk.1, h.f, h.g⟩

/-- Both drivers end with registers past the first iteration. -/
theorem driver_of_modulus_one {i : Instr} (hi : i = .modinv ∨ i = .modinvVar) {r : Regs}
    (hin : InputsOk r) (hM : value r.mod = 1) (checks : Bool) :
    ∃ r' k, ruleOf checks i r = .ok r' ∧ UnitBoundary (k + 1) r' := by
  rcases hi with rfl | rfl
  · obtain ⟨r', hr, hb⟩ := modinvRule_of_modulus_one hin hM checks
    exact ⟨r', 11, hr, hb⟩
  · obtain ⟨r', hr, hb⟩ := modinvVarRule_of_modulus_one hin hM checks
    exact ⟨r', 0, hr, hb⟩

/-- The command UPDATE_DE refuses e = 1 under the modulus 1 (R87 check 4). -/
theorem updateDeRule_of_modulus_one {r : Regs} (hT : r.matrix = haltMatrix)
    (hinfo : ModinfoValid r.mod r.modinv62) (hm : r.mod = Limbs.one) (he : r.e = Limbs.one) :
    updateDeRule r = .error .operandRange := by
  have hbad : ¬(ResidueOk r.d r.mod ∧ ResidueOk r.e r.mod) := by
    rintro ⟨-, -, -, hlt, -⟩
    rw [he, hm] at hlt
    exact lt_irrefl _ hlt
  rw [updateDeRule, updateDeWith_eq, hT, if_pos hinfo, if_pos haltMatrix_tBoundOk, if_pos haltMatrix_det,
    if_neg hbad]

/-- Settles O51: the drivers pass the boundaries of `UnitBoundary`, and the three commands by hand stop at INIT's
e = 1. -/
theorem modulusOneGivesZero : Obligations.ModulusOneGivesZero := by
  intro s i hi hin hM
  constructor
  · obtain ⟨r, k, hr, hb⟩ := driver_of_modulus_one hi hin hM s.status.checks
    obtain ⟨hx, hd, he, hf, hg⟩ := hb.result
    exact ⟨_, exec_of_rule_ok hr, rfl, hx, hd, he, by rw [(mod_x_of_modulus_one hin hM).1]; exact hf, hg⟩
  · obtain ⟨r1, h1, hb, he⟩ := initRule_of_modulus_one hin hM
    have h2 := hb.divstepsRule_eq (by decide)
    have h3 := updateDeRule_of_modulus_one (setDivsteps_haltMatrix_matrix r1 (r1.eta.toInt - 62))
      hb.modinfo hb.mod he
    obtain ⟨t, ht, hfail⟩ := exec_of_rule_error (i := .updateDe) (s := (s.finish r1).finish _) h3
    exact ⟨_, _, t, exec_of_rule_ok (i := .init) h1, exec_of_rule_ok (i := .divstepsCt) h2, ht, hfail⟩

end Sys2Proof.Machine
end

section
/-! SUPPORT. The STATUS word bit by bit (10_state.md R34), and the state after reset (R39). -/

namespace Sys2Proof.Machine

/-- Which field of STATUS each bit of its word belongs to; the reserved bits are 0 (R34). -/
theorem statusWord_getLsbD (st : Status) (i : Nat) : (statusWord st).getLsbD i =
    if i < 1 then (BitVec.ofBool st.busy).getLsbD i
    else if i < 2 then (BitVec.ofBool st.done).getLsbD (i - 1)
    else if i < 3 then (BitVec.ofBool st.fault).getLsbD (i - 2)
    else if i < 8 then false
    else if i < 16 then st.fcode.code.getLsbD (i - 8)
    else if i < 24 then st.lastop.getLsbD (i - 16)
    else if i < 25 then (BitVec.ofBool st.checks).getLsbD (i - 24)
    else false := by
  have hfield (k m : Nat) : i - k < m + 1 ↔ i < k + (m + 1) := by omega
  change BitVec.getLsbD (w := 39 + 1 + 8 + 8 + 5 + 1 + 1 + 1) _ i = _
  simp only [statusWord, BitVec.getLsbD_append, BitVec.getLsbD_zero, Nat.sub_sub]
  simp only [hfield, Nat.reduceAdd]

/-- Settles O10: each field is read off bit by bit. -/
theorem statusWordLayout : Obligations.StatusWordLayout := by
  refine ⟨fun st => ⟨?busy, ?done, ?fault, ?low, ?fcode, ?lastop, ?checks, ?high⟩, rfl⟩
  case busy | done | fault | checks =>
    rw [statusWord_getLsbD]
    simp
  all_goals
    refine BitVec.eq_of_getLsbD_eq fun i hi => ?_
    rw [BitVec.getLsbD_extractLsb', statusWord_getLsbD]
    interval_cases i <;> simp

/-- Settles O16. -/
theorem resetValues : Obligations.ResetValues := by
  refine ⟨fun c => ?_, rfl, rfl, rfl, rfl, rfl, rfl⟩
  cases c with
  | limb V i => cases V <;> fin_cases i <;> rfl
  | _ => rfl

/-- Settles O20: the engine is idle and ITER is 0. -/
theorem resetMeetsTheInvariant : Obligations.ResetMeetsTheInvariant := by
  unfold Obligations.ResetMeetsTheInvariant
  simp [State.Inv, State.reset, Regs.reset]

end Sys2Proof.Machine
end

section
/-! SUPPORT. What the rules of the commands keep (30_encoding.md R61; 10_state.md R25, R26, R32), and the codes they
fail with (60_exceptions.md R110, R112). -/

namespace Sys2Proof.Machine

/-! ### What the rules of the commands keep -/

/-- INIT's registers (R98). -/
theorem initRule_ok {r r' : Regs} (h : initRule r = .ok r') :
    r' = { r with d := Limbs.zero, e := Limbs.one, f := r.mod, g := r.x, eta := BitVec.ofInt 64 (-1), iter := 0 } := by
  rw [initRule_eq] at h
  split_ifs at h
  cases h
  rfl

/-- A divstep command replaces ETA and the matrix (R77). -/
theorem divstepsRule_ok {r r' : Regs} (h : divstepsRule r = .ok r') : ∃ res, r' = r.setDivsteps res := by
  rw [divstepsRule_eq] at h
  split_ifs at h
  exact ⟨_, (Except.ok.inj h).symm⟩

/-- UPDATE_DE, whatever its check 4 is, replaces D and E (R86). -/
theorem updateDeWith_ok {ok : Prop} [Decidable ok] {r r' : Regs} (h : updateDeWith ok r = .ok r') :
    ∃ d e, r' = { r with d := d, e := e } := by
  rw [updateDeWith_eq] at h
  split_ifs at h
  cases h
  exact ⟨_, _, rfl⟩

/-- UPDATE_FG replaces F and G (R92). -/
theorem updateFgRule_ok {r r' : Regs} (h : updateFgRule r = .ok r') : ∃ f g, r' = { r with f := f, g := g } := by
  rw [updateFgRule_eq] at h
  split_ifs at h
  cases h
  exact ⟨_, _, rfl⟩

/-- NORMALIZE replaces D (R71). -/
theorem normalizeRule_ok {r r' : Regs} (h : normalizeRule r = .ok r') : ∃ d, r' = { r with d := d } := by
  rw [normalizeRule_eq] at h
  split_ifs at h
  cases h
  exact ⟨_, rfl⟩

/-- The end of a driver replaces D and X, both with the result (R100). -/
theorem driverEnd_ok {checks : Bool} {r r' : Regs} (h : driverEnd checks r = .ok r') :
    ∃ d, r' = { r with d := d, x := d } := by
  simp only [driverEnd, bind_eq_ok] at h
  obtain ⟨-, -, r1, hn, h⟩ := h
  obtain ⟨d, rfl⟩ := normalizeRule_ok hn
  cases h
  exact ⟨d, rfl⟩

/-- `r'` has the MOD and the MODINV62 of `r`, and an ITER that is `n` further (R32). -/
structure Regs.Advanced (n : Nat) (r r' : Regs) : Prop where
  mod : r'.mod = r.mod
  modinv62 : r'.modinv62 = r.modinv62
  iter : r'.iter = r.iter + BitVec.ofNat 64 n

theorem Regs.Advanced.refl (r : Regs) : r.Advanced 0 r := ⟨rfl, rfl, by simp⟩

theorem Regs.Advanced.trans {m n : Nat} {r r' r'' : Regs} (h : r.Advanced m r') (h' : r'.Advanced n r'') :
    r.Advanced (m + n) r'' :=
  ⟨h'.mod.trans h.mod, h'.modinv62.trans h.modinv62,
    by rw [h'.iter, h.iter, BitVec.ofNat_add, BitVec.add_assoc]⟩

/-- One driver iteration (R99). -/
theorem iterateRule_advanced {r r' : Regs} (h : iterateRule divstepsRule r = .ok r') : r.Advanced 1 r' := by
  obtain ⟨r1, r2, r3, h1, h2, h3, rfl⟩ := iterateRule_eq_ok.1 h
  obtain ⟨res, rfl⟩ := divstepsRule_ok h1
  obtain ⟨d, e, rfl⟩ := updateDeWith_ok h2
  obtain ⟨f, g, rfl⟩ := updateFgRule_ok h3
  exact ⟨rfl, rfl, rfl⟩

theorem iterations_advanced {n : Nat} {r r' : Regs} (h : iterations divstepsRule n r = .ok r') :
    r.Advanced n r' := by
  induction n generalizing r' with
  | zero =>
    cases h
    exact .refl r
  | succ n ih =>
    rw [iterations_succ_last, bind_eq_ok] at h
    obtain ⟨r1, h1, h2⟩ := h
    exact (ih h1).trans (iterateRule_advanced h2)

/-- A driver keeps MOD and MODINV62, and leaves in ITER the number of its iterations, at most 12 (R32, R100, R101). -/
structure Regs.Driven (r r' : Regs) : Prop where
  mod : r'.mod = r.mod
  modinv62 : r'.modinv62 = r.modinv62
  iter : r'.iter.toNat ≤ maxIters

/-- INIT, at most 12 iterations and the end of a driver, one after the other. -/
theorem driven_of_stages {checks : Bool} {n : Nat} {r r1 r2 r' : Regs} (hn : n ≤ maxIters)
    (hinit : initRule r = .ok r1) (hloop : iterations divstepsRule n r1 = .ok r2)
    (hend : driverEnd checks r2 = .ok r') : r.Driven r' := by
  obtain ⟨d, rfl⟩ := driverEnd_ok hend
  obtain ⟨hmod, hinv, hiter⟩ := iterations_advanced hloop
  obtain rfl := initRule_ok hinit
  refine ⟨hmod, hinv, ?_⟩
  simp only [maxIters] at hn ⊢
  simp only [hiter, BitVec.ofNat_eq_ofNat, BitVec.zero_add, BitVec.toNat_ofNat]
  omega

theorem modinvRule_driven {checks : Bool} {r r' : Regs} (h : modinvRule checks r = .ok r') : r.Driven r' := by
  simp only [modinvRule, bind_eq_ok] at h
  obtain ⟨r1, h1, r2, h2, h3⟩ := h
  exact driven_of_stages le_rfl h1 h2 h3

theorem modinvVarRule_driven {checks : Bool} {r r' : Regs} (h : modinvVarRule checks r = .ok r') :
    r.Driven r' := by
  simp only [modinvVarRule, bind_eq_ok] at h
  obtain ⟨r1, h1, r2, h2, h3⟩ := h
  obtain ⟨k, -, hk, hloop, -⟩ := vtLoop_eq_ok h2
  exact driven_of_stages hk h1 hloop h3

/-- No command changes MOD or MODINV62, and none takes ITER past 12 (R25, R26, R32). -/
theorem ruleOf_ok {checks : Bool} {i : Instr} {r r' : Regs} (h : ruleOf checks i r = .ok r') :
    r'.mod = r.mod ∧ r'.modinv62 = r.modinv62 ∧ (r.iter.toNat ≤ maxIters → r'.iter.toNat ≤ maxIters) := by
  cases i with
  | init => rw [initRule_ok h]; exact ⟨rfl, rfl, fun _ => Nat.zero_le _⟩
  | divstepsCt | divstepsVt => obtain ⟨res, rfl⟩ := divstepsRule_ok h; exact ⟨rfl, rfl, id⟩
  | updateDe => obtain ⟨d, e, rfl⟩ := updateDeWith_ok h; exact ⟨rfl, rfl, id⟩
  | updateFg => obtain ⟨f, g, rfl⟩ := updateFgRule_ok h; exact ⟨rfl, rfl, id⟩
  | normalize => obtain ⟨d, rfl⟩ := normalizeRule_ok h; exact ⟨rfl, rfl, id⟩
  | modinv => obtain ⟨hm, hv, hi⟩ := modinvRule_driven h; exact ⟨hm, hv, fun _ => hi⟩
  | modinvVar => obtain ⟨hm, hv, hi⟩ := modinvVarRule_driven h; exact ⟨hm, hv, fun _ => hi⟩

/-! ### The codes the rules fail with -/

/-- The code of a command's check (R110, R112): neither that of no fault nor one of the interface's two. -/
abbrev FaultCode.OfCheck (code : FaultCode) : Prop := code ∉ [FaultCode.none, .illegalCmd, .busyWrite]

/-- A rule that can fail only with the code of a command's check (R112). -/
def FailsByCheck {α : Type} (x : Except FaultCode α) : Prop :=
  ∀ code, x = .error code → code.OfCheck

theorem failsByCheck_ok {α : Type} (a : α) : FailsByCheck (.ok a) := fun _ h => nomatch h

theorem failsByCheck_error {α : Type} {code : FaultCode} (hc : code.OfCheck) :
    FailsByCheck (.error code : Except FaultCode α) := by
  rintro _ ⟨⟩
  exact hc

theorem FailsByCheck.ite {α : Type} {p : Prop} [Decidable p] {x y : Except FaultCode α} (hx : FailsByCheck x)
    (hy : FailsByCheck y) : FailsByCheck (if p then x else y) := by
  split
  · exact hx
  · exact hy

theorem FailsByCheck.bind {α β : Type} {x : Except FaultCode α} {k : α → Except FaultCode β}
    (hx : FailsByCheck x) (hk : ∀ a, FailsByCheck (k a)) : FailsByCheck (x >>= k) := by
  cases x with
  | ok a => exact hk a
  | error code => exact failsByCheck_error (hx code rfl)

theorem failsByCheck_require {p : Prop} [Decidable p] {code : FaultCode}
    (hc : code.OfCheck) : FailsByCheck (require p code) :=
  (failsByCheck_ok ()).ite (failsByCheck_error hc)

/-- A check in front of a rule. -/
theorem FailsByCheck.after_require {α : Type} {p : Prop} [Decidable p] {code : FaultCode}
    {k : Unit → Except FaultCode α} (hc : code.OfCheck) (hk : FailsByCheck (k ())) :
    FailsByCheck (require p code >>= k) :=
  (failsByCheck_require hc).bind fun _ => hk

theorem FailsByCheck.ne_none {α : Type} {x : Except FaultCode α} (hx : FailsByCheck x) {code : FaultCode}
    (h : x = .error code) : code ≠ .none :=
  fun hc => hx code h (by simp [hc])

theorem initRule_failsByCheck (r : Regs) : FailsByCheck (initRule r) :=
  .after_require (by decide) <| .after_require (by decide) <| failsByCheck_ok _

theorem divstepsRule_failsByCheck (r : Regs) : FailsByCheck (divstepsRule r) :=
  .after_require (by decide) <| .after_require (by decide) <| failsByCheck_ok _

theorem updateDeWith_failsByCheck (ok : Prop) [Decidable ok] (r : Regs) : FailsByCheck (updateDeWith ok r) :=
  .after_require (by decide) <| .after_require (by decide) <| .after_require (by decide) <|
    .after_require (by decide) <| .after_require (by decide) <| failsByCheck_ok _

theorem updateFgRule_failsByCheck (r : Regs) : FailsByCheck (updateFgRule r) :=
  .after_require (by decide) <| .after_require (by decide) <| .after_require (by decide) <|
    .after_require (by decide) <| failsByCheck_ok _

theorem normalizeRule_failsByCheck (r : Regs) : FailsByCheck (normalizeRule r) :=
  .after_require (by decide) <| .after_require (by decide) <| failsByCheck_ok _

theorem iterateRule_failsByCheck (r : Regs) : FailsByCheck (iterateRule divstepsRule r) :=
  (divstepsRule_failsByCheck r).bind fun r1 => (updateDeWith_failsByCheck _ r1).bind fun r2 =>
    (updateFgRule_failsByCheck r2).bind fun _ => failsByCheck_ok _

theorem ctLoop_failsByCheck (n : Nat) (r : Regs) : FailsByCheck (ctLoop n r) := by
  induction n generalizing r with
  | zero => exact failsByCheck_ok r
  | succ n ih => exact (iterateRule_failsByCheck r).bind ih

theorem vtLoop_failsByCheck (n : Nat) (r : Regs) : FailsByCheck (vtLoop n r) := by
  induction n generalizing r with
  | zero => exact failsByCheck_error (by decide)
  | succ n ih => exact (iterateRule_failsByCheck r).bind fun r1 => (failsByCheck_ok r1).ite (ih r1)

theorem driverEnd_failsByCheck (checks : Bool) (r : Regs) : FailsByCheck (driverEnd checks r) :=
  .after_require (by decide) <| (normalizeRule_failsByCheck r).bind fun _ => failsByCheck_ok _

/-- A command fails with the code of a command's check (R112). -/
theorem ruleOf_failsByCheck (checks : Bool) (i : Instr) (r : Regs) : FailsByCheck (ruleOf checks i r) := by
  cases i with
  | init => exact initRule_failsByCheck r
  | divstepsCt | divstepsVt => exact divstepsRule_failsByCheck r
  | updateDe => exact updateDeWith_failsByCheck _ r
  | updateFg => exact updateFgRule_failsByCheck r
  | normalize => exact normalizeRule_failsByCheck r
  | modinv =>
    exact (initRule_failsByCheck r).bind fun r1 => (ctLoop_failsByCheck _ r1).bind (driverEnd_failsByCheck checks)
  | modinvVar =>
    exact (initRule_failsByCheck r).bind fun r1 => (vtLoop_failsByCheck _ r1).bind (driverEnd_failsByCheck checks)

end Sys2Proof.Machine
end

section
/-! SUPPORT. What one step can do to the registers and STATUS (30_encoding.md R67), and from it the engine's invariant
(10_state.md R34), progress, and the frame of MOD and MODINV62. -/

namespace Sys2Proof.Machine

/-- What one step can do to the registers and STATUS (R67): `t` is the state after a step from `s`. Every invariant of
the step is a case analysis of it. -/
inductive StepEffect (s t : State) : Prop
  /-- A read, an ignored write, or the engine's turn while nothing runs. -/
  | quiet (hregs : t.regs = s.regs) (hstatus : t.status = s.status)
  /-- Reset (R127). -/
  | reset {rest : List Event} (hscript : s.script = .reset :: rest) (hregs : t.regs = Regs.reset)
      (hstatus : t.status = Status.reset s.status.checks)
  /-- A host write that stores in a register cell (R47). -/
  | store {off width : Nat} {v : Word} {rest : List Event} {c : Reg}
      (hscript : s.script = .write off width v :: rest) (hslot : slotAt off = .reg c) (hc : c ≠ .iter)
      (hready : s.Ready) (hregs : t.regs = s.regs.set c v) (hstatus : t.status = s.status)
  /-- The acceptance of a command (R63). -/
  | accept {w : Word} {i : Instr} (hready : s.Ready) (hdecode : decode w = .ok i) (hregs : t.regs = s.regs)
      (hstatus : t.status = statusBusy (statusRecordOp (opField w) s.status))
  /-- A word that is no command (R62). -/
  | illegal {w : Word} (hready : s.Ready) (hregs : t.regs = s.regs.unspecify s.draws faultedRegs)
      (hstatus : t.status = statusFault .illegalCmd (statusRecordOp (opField w) s.status))
  /-- A host write while a command runs (R48). -/
  | busyWrite (hbusy : s.status.busy = true) (hregs : t.regs = s.regs.unspecify s.draws faultedRegs)
      (hstatus : t.status = statusFault .busyWrite s.status)
  /-- A command that completes (R65). -/
  | completed {i : Instr} (hbusy : s.status.busy = true) (hdecode : decode (fetchWord s) = .ok i)
      (hrule : ruleOf s.status.checks i s.regs = .ok t.regs) (hstatus : t.status = statusDone s.status)
  /-- A command whose check raises its fault (R112). -/
  | checkFault {i : Instr} {code : FaultCode} (hbusy : s.status.busy = true)
      (hdecode : decode (fetchWord s) = .ok i) (hchecks : s.status.checks = true)
      (hrule : ruleOf s.status.checks i s.regs = .error code)
      (hregs : t.regs = s.regs.unspecify s.draws faultedRegs) (hstatus : t.status = statusFault code s.status)
  /-- A command that completes on a violated precondition, with CHECK_INVARIANTS false (R114). -/
  | unspecified {i : Instr} {code : FaultCode} (hbusy : s.status.busy = true)
      (hdecode : decode (fetchWord s) = .ok i) (hchecks : s.status.checks = false)
      (hrule : ruleOf s.status.checks i s.regs = .error code)
      (hregs : t.regs = s.regs.unspecify s.draws (writesOf i)) (hstatus : t.status = statusDone s.status)

/-- A host read changes neither the registers nor STATUS (R46 to R49). -/
theorem hostRead_effect (s : State) (rest : List Event) (off : Nat) :
    StepEffect s (State.hostRead off { s with script := rest }) := by
  obtain ⟨v, h⟩ | h := hostRead_cases off { s with script := rest } <;> rw [h] <;> exact .quiet rfl rfl

/-- A host write does nothing, raises BUSY_WRITE, stores, or goes to CMD (R47 to R49, R63). -/
theorem hostWrite_effect {s : State} {off width : Nat} {v : Word} {rest : List Event}
    (hscript : s.script = .write off width v :: rest) :
    StepEffect s (State.hostWrite off v { s with script := rest }) := by
  obtain h | ⟨-, h⟩ | ⟨c, hslot, hc, h⟩ := hostWrite_cases off v { s with script := rest } <;> rw [h]
  · exact .quiet rfl rfl
  · obtain ⟨-, h⟩ | ⟨-, hb, h⟩ | ⟨hf, hb, h⟩ :=
      guardedWrite_cases (State.acceptCommand v) { s with script := rest } <;> rw [h]
    · exact .quiet rfl rfl
    · exact .busyWrite hb rfl rfl
    · obtain ⟨i, hd, h⟩ | ⟨why, -, h⟩ := acceptCommand_cases v { s with script := rest } <;> rw [h]
      · exact .accept ⟨hb, hf⟩ hd rfl rfl
      · exact .illegal ⟨hb, hf⟩ rfl rfl
  · obtain ⟨-, h⟩ | ⟨-, hb, h⟩ | ⟨hf, hb, h⟩ :=
      guardedWrite_cases (fun t => { t with regs := t.regs.set c v }) { s with script := rest } <;> rw [h]
    · exact .quiet rfl rfl
    · exact .busyWrite hb rfl rfl
    · exact .store hscript hslot hc ⟨hb, hf⟩ rfl rfl

/-- The engine's turn: nothing, or the running command to its end (R65, R112, R114). -/
theorem completeStep_effect {s t : State} {rest : List Event}
    (h : completeStep { s with script := rest } = .next t) : StepEffect s t := by
  obtain ⟨-, hstep⟩ | ⟨i, hb, hd, hstep⟩ | ⟨why, -, -, hstep⟩ :=
    completeStep_cases { s with script := rest } <;> rw [hstep] at h
  · cases h
    exact .quiet rfl rfl
  · rw [exec_eq_conclude] at h
    cases h
    obtain ⟨r, hr, h⟩ | ⟨code, hr, hc, h⟩ | ⟨code, hr, hc, h⟩ :=
      conclude_cases (writesOf i) (ruleOf s.status.checks i s.regs) { s with script := rest } <;> rw [h]
    · exact .completed hb hd hr rfl
    · exact .checkFault hb hd hc hr rfl rfl
    · exact .unspecified hb hd hc hr rfl rfl
  · cases h

/-- Every step has one of these effects. -/
theorem step_effect {s t : State} (h : step s = .next t) : StepEffect s t := by
  cases hscript : s.script with
  | nil =>
    rw [step_nil hscript] at h
    exact completeStep_effect (rest := s.script) h
  | cons ev rest =>
    rw [step_cons hscript] at h
    obtain ⟨off, width, -, -, rfl⟩ | ⟨off, width, v, rfl, -, rfl⟩ | ⟨rfl, rfl⟩ | ⟨-, h⟩ :=
      applyEvent_cases h
    · exact hostRead_effect s rest off
    · exact hostWrite_effect hscript
    · exact .reset hscript rfl rfl
    · exact completeStep_effect h

/-! ### The invariant -/

/-- A command's word has RSV = 0 (R62). -/
theorem rsvField_of_decode {w : Word} {i : Instr} (h : decode w = .ok i) : rsvField w = 0 := by
  unfold decode at h
  split at h
  · cases h
  · rename_i hrsv
    exact not_not.1 hrsv

/-- The word of a command is its OP alone, so LASTOP keeps all of it (R33, R62; log 7). -/
theorem zeroExtend_opField {w : Word} {i : Instr} (h : decode w = .ok i) : (opField w).zeroExtend 64 = w := by
  have hrsv : w.toNat / 256 % 2 ^ 56 = 0 := by
    simpa [rsvField, BitVec.extractLsb'_toNat, Nat.shiftRight_eq_div_pow] using
      congrArg BitVec.toNat (rsvField_of_decode h)
  have hw := w.isLt
  apply BitVec.eq_of_toNat_eq
  simp only [opField, BitVec.truncate_eq_setWidth, BitVec.toNat_setWidth, BitVec.extractLsb'_toNat]
  omega

/-- A state reached by a fault meets the invariant when the fault is one of the interface, or of a check with
CHECK_INVARIANTS true (R110, R113, R114). -/
theorem inv_of_fault {t : State} {code : FaultCode} {st : Status} (h : t.status = statusFault code st)
    (hcode : (code = .illegalCmd ∨ code = .busyWrite) ∨ (code ≠ .none ∧ st.checks = true)) : t.Inv := by
  have hne : code ≠ .none := by rcases hcode with (rfl | rfl) | ⟨h, -⟩ <;> trivial
  refine ⟨by simp [h], by simp [h, hne], by simp [h], ?_, by simp [h]⟩
  simp only [h, statusFault_fcode, statusFault_checks]
  rintro ⟨-, hc⟩
  exact hcode.resolve_right (by simp [hc])

/-- A state reached by a command's completion meets the invariant when ITER is in range with CHECK_INVARIANTS true. -/
theorem inv_of_done {s t : State} (hs : s.Inv) (hbusy : s.status.busy = true) (h : t.status = statusDone s.status)
    (hiter : s.status.checks = true → t.regs.iter.toNat ≤ maxIters) : t.Inv := by
  obtain ⟨⟨-, hbf, -⟩, hfcode, hcmd, -, -⟩ := hs
  have hfault : s.status.fault = false := by simpa [hbusy] using hbf
  have hlast : t.RunsCommand := by simpa [State.RunsCommand, fetchWord, h] using hcmd (.inl hbusy)
  exact ⟨by simp [h, hfault], by simpa [h] using hfcode, fun _ => hlast, by simp [h, hfault],
    fun hc => hiter (by simpa [h] using hc.2)⟩

/-- The invariant speaks of STATUS and ITER only. -/
theorem inv_of_same {s t : State} (hs : s.Inv) (hiter : t.regs.iter = s.regs.iter)
    (hstatus : t.status = s.status) : t.Inv := by
  simpa [State.Inv, State.RunsCommand, fetchWord, hiter, hstatus] using hs

/-- Every effect of a step keeps the invariant. -/
theorem StepEffect.inv {s t : State} (h : StepEffect s t) (hs : s.Inv) : t.Inv := by
  cases h with
  | quiet hregs hstatus => exact inv_of_same hs (by rw [hregs]) hstatus
  | reset hscript hregs hstatus => simp [State.Inv, hregs, hstatus, Regs.reset]
  | store hscript hslot hc hready hregs hstatus =>
    exact inv_of_same hs (by rw [hregs]; exact get_set_other s.regs hc.symm _) hstatus
  | accept hready hdecode hregs hstatus =>
    obtain ⟨-, hfcode, -, -, hiter⟩ := hs
    obtain ⟨hb, hf⟩ := hready
    have hcmd : t.RunsCommand := by
      simp [State.RunsCommand, fetchWord, hstatus, zeroExtend_opField hdecode, hdecode, Except.isOk, Except.toBool]
    refine ⟨by simp [hstatus, hf], by simpa [hstatus] using hfcode, fun _ => hcmd, by simp [hstatus, hf], ?_⟩
    simpa [hstatus, hregs] using hiter
  | illegal hready hregs hstatus => exact inv_of_fault hstatus (.inl (.inl rfl))
  | busyWrite hbusy hregs hstatus => exact inv_of_fault hstatus (.inl (.inr rfl))
  | completed hbusy hdecode hrule hstatus =>
    obtain ⟨-, -, hiter⟩ := ruleOf_ok hrule
    obtain ⟨⟨-, hbf, -⟩, -, -, -, hbound⟩ := id hs
    exact inv_of_done hs hbusy hstatus fun hc => hiter (hbound ⟨by simpa [hbusy] using hbf, hc⟩)
  | checkFault hbusy hdecode hchecks hrule hregs hstatus =>
    exact inv_of_fault hstatus (.inr ⟨(ruleOf_failsByCheck _ _ _).ne_none hrule, hchecks⟩)
  | unspecified hbusy hdecode hchecks hrule hregs hstatus =>
    exact inv_of_done hs hbusy hstatus fun hc => by simp [hchecks] at hc

/-- Settles O21: each of a step's effects keeps the invariant; ITER stays in range because no command's rule takes it
past 12. -/
theorem everyStepKeepsTheInvariant : Obligations.EveryStepKeepsTheInvariant :=
  fun _ _ hs h => (step_effect h).inv hs

/-! ### Progress, and what no step changes -/

/-- No step changes CHECKS (R34). -/
theorem StepEffect.checks {s t : State} (h : StepEffect s t) : t.status.checks = s.status.checks := by
  cases h <;> simp [*]

/-- Under the invariant the engine's turn goes on: what runs is a command. -/
theorem completeStep_next {s : State} (hs : s.Inv) : ∃ t, completeStep s = .next t := by
  obtain ⟨-, -, hcmd, -, -⟩ := hs
  obtain ⟨-, h⟩ | ⟨i, -, -, h⟩ | ⟨why, hb, hd, -⟩ := completeStep_cases s
  · exact ⟨s, h⟩
  · exact ⟨_, h.trans (exec_eq_conclude i s)⟩
  · have hrun := hcmd (.inl hb)
    rw [State.RunsCommand, hd] at hrun
    cases hrun

/-- An event of the script goes on when its access, if it is one, is one the window admits (R44). -/
theorem applyEvent_next {s : State} {ev : Event} (hs : s.Inv) (hwf : ev.wf = true) :
    ∃ t, applyEvent ev s = .next t := by
  cases ev with
  | read off width => exact ⟨s.hostRead off, by simp [applyEvent, (accessRefusal_eq_none off width).2 hwf]⟩
  | write off width v => exact ⟨s.hostWrite off v, by simp [applyEvent, (accessRefusal_eq_none off width).2 hwf]⟩
  | reset => exact ⟨s.resetEngine, rfl⟩
  | complete => exact completeStep_next hs

/-- Settles O22. -/
theorem machineGoesOn : Obligations.MachineGoesOn := by
  intro s hs hwf
  have hnext : ∃ t, step s = .next t := by
    cases hscript : s.script with
    | nil => rw [step_nil hscript]; exact completeStep_next hs
    | cons ev rest => rw [step_cons hscript]; exact applyEvent_next hs (hwf ev rest hscript)
  obtain ⟨t, h⟩ := hnext
  exact ⟨t, h, (step_effect h).checks⟩

/-- The cells a fault keeps are MODINV62 and the limbs of MOD (R113). -/
theorem not_mem_faultedRegs_iff (c : Reg) : c ∉ faultedRegs ↔ c = .modinv62 ∨ ∃ i, c = .limb .mod i := by
  rw [← survivesFault_iff]
  cases c with
  | limb V i => cases V <;> simp [survivesFault]
  | _ => simp [survivesFault]

/-- What changes nothing outside the registers a fault draws for keeps MOD and MODINV62 (R113). -/
theorem Regs.SameOutside.modulus {r r' : Regs} (h : Regs.SameOutside faultedRegs r r') :
    r'.mod = r.mod ∧ r'.modinv62 = r.modinv62 :=
  ⟨limbs_ext_limb fun i => h (.limb .mod i) ((not_mem_faultedRegs_iff _).2 (.inr ⟨i, rfl⟩)),
    h .modinv62 ((not_mem_faultedRegs_iff _).2 (.inl rfl))⟩

/-- Settles O23: the effects of a step, but for reset and stores, keep the cells that a fault keeps, or are a command's
completion. -/
theorem onlyTheHostWritesTheModulus : Obligations.OnlyTheHostWritesTheModulus := by
  intro s t h hreset hwrite
  cases step_effect h with
  | quiet hregs | accept _ _ hregs => rw [hregs]; exact ⟨rfl, rfl⟩
  | reset hscript => exact absurd hscript (hreset _)
  | @store off width v rest c hscript hslot _ _ hregs =>
    obtain ⟨hinv, hmod⟩ := hwrite off width v rest c hscript hslot
    rw [hregs]
    refine Regs.SameOutside.modulus fun c' hc' => get_set_other s.regs ?_ v
    rintro rfl
    exact ((not_mem_faultedRegs_iff c').1 hc').elim hinv fun ⟨i, hi⟩ => hmod i hi
  | illegal _ hregs | busyWrite _ hregs | checkFault _ _ _ _ hregs =>
    rw [hregs]
    exact Regs.SameOutside.modulus fun c hc => unspecifyRegs_other hc s.draws s.regs
  | completed _ _ hrule =>
    obtain ⟨hmod, hinv, -⟩ := ruleOf_ok hrule
    exact ⟨hmod, hinv⟩
  | @unspecified i _ _ _ _ _ hregs =>
    rw [hregs]
    exact Regs.SameOutside.modulus fun c hc =>
      unspecifyRegs_other (fun hw => hc (writesOf_subset_faultedRegs i c hw)) s.draws s.regs

end Sys2Proof.Machine
end

section
/-! SUPPORT. Bits 63..62 of MODINV62 (10_state.md R26): every rule that reads the register reads it modulo 2^62. -/

namespace Sys2Proof.Machine

/-- Writes of two different cells can be exchanged (R21). -/
theorem set_comm (r : Regs) {c c' : Reg} (h : c ≠ c') (w w' : Word) :
    (r.set c w).set c' w' = (r.set c' w').set c w := by
  refine regs_ext_get fun b => ?_
  by_cases hb : b = c
  · subst hb
    rw [get_set_other _ h, get_set_same, get_set_same]
  · by_cases hb' : b = c'
    · subst hb'
      rw [get_set_same, get_set_other _ hb, get_set_same]
    · rw [get_set_other _ hb', get_set_other _ hb, get_set_other _ hb, get_set_other _ hb']

/-- Draws for other cells do not see a cell's value. -/
theorem unspecify_set {c : Reg} {cells : List Reg} (h : c ∉ cells) (first : Nat) (r : Regs) (w : Word) :
    (r.set c w).unspecify first cells = (r.unspecify first cells).set c w := by
  induction cells generalizing first r with
  | nil => rfl
  | cons b cs ih =>
    rw [List.mem_cons, not_or] at h
    obtain ⟨hb, hcs⟩ := h
    rw [Regs.unspecify, Regs.unspecify, set_comm r hb, ih hcs]

/-- The end of a command whose destinations leave out a cell carries the cell's value along. -/
theorem conclude_set {c : Reg} (hc : c ∉ faultedRegs) (i : Instr) (res : Except FaultCode Regs) (s : State)
    (w : Word) :
    State.conclude (writesOf i) (res.map (·.set c w)) { s with regs := s.regs.set c w } =
      { s.conclude (writesOf i) res with regs := (s.conclude (writesOf i) res).regs.set c w } := by
  have hw : c ∉ writesOf i := fun h => hc (writesOf_subset_faultedRegs i c h)
  cases res with
  | ok r => rfl
  | error code =>
    simp only [State.conclude, Except.map]
    split
    · simp only [State.raiseFault, State.unspecify, unspecify_set hc]
    · simp only [State.finishUnspecified, State.unspecify, unspecify_set hw]

/-- `w` has the low 62 bits of the register MODINV62. -/
abbrev Regs.SameInverse (w : Word) (r : Regs) : Prop := w.toNat % 2 ^ 62 = r.modinv62.toNat % 2 ^ 62

section Arithmetic
variable {w : Word} {r : Regs} (hw : r.SameInverse w)
include hw

theorem Regs.SameInverse.modEq : (w.toNat : Int) ≡ r.modinv62.toNat [ZMOD radix] := by
  simp only [Int.ModEq, radix]
  omega

/-- `modinfo_valid` reads MODINV62 modulo 2^62 (R111). -/
theorem modinfoValid_of_sameInverse (m : Limbs) : ModinfoValid m w ↔ ModinfoValid m r.modinv62 := by
  have h := hw.modEq.mul_right m.v0.toNat
  rw [Int.ModEq] at h
  simp only [ModinfoValid, h]

/-- A row of UPDATE_DE reads MODINV62 modulo 2^62 (R86, step 4). -/
theorem deRow_of_sameInverse (a b : Int) (d e m : IntLimbs) :
    deRow a b d e m w.toNat = deRow a b d e m r.modinv62.toNat := by
  have h := (hw.modEq.mul_right (a * d.v0 + b * e.v0)).add_right (correctionStart a b d e)
  rw [Int.ModEq] at h
  simp only [deRow, correction, low62, h]

end Arithmetic

/-- A rule that answers the same when MODINV62 is `w`, which has the same low 62 bits, and leaves `w` there. -/
def IgnoresTopBits (w : Word) (rule : Regs → Except FaultCode Regs) : Prop :=
  ∀ r : Regs, r.SameInverse w → rule (r.set .modinv62 w) = (rule r).map (·.set .modinv62 w)

theorem ignoresTopBits_ok (w : Word) : IgnoresTopBits w .ok := fun _ _ => rfl

theorem IgnoresTopBits.bind {w : Word} {f g : Regs → Except FaultCode Regs} (hf : IgnoresTopBits w f)
    (hkeep : ∀ r r', f r = .ok r' → r'.modinv62 = r.modinv62) (hg : IgnoresTopBits w g) :
    IgnoresTopBits w fun r => f r >>= g := by
  intro r hw
  simp only [hf r hw]
  cases h : f r with
  | ok r' => exact hg r' (by rw [Regs.SameInverse, hkeep r r' h]; exact hw)
  | error code => rfl

/-- A choice between two rules by a test that reads MODINV62 modulo 2^62 too. -/
theorem IgnoresTopBits.ite {w : Word} {p : Regs → Prop} [∀ r, Decidable (p r)]
    {f g : Regs → Except FaultCode Regs} (hp : ∀ r : Regs, r.SameInverse w → (p (r.set .modinv62 w) ↔ p r))
    (hf : IgnoresTopBits w f) (hg : IgnoresTopBits w g) : IgnoresTopBits w fun r => if p r then f r else g r := by
  intro r hw
  simp only [hp r hw, hf r hw, hg r hw]
  split_ifs <;> rfl

/-- A check in front of a rule. -/
theorem IgnoresTopBits.after_require {w : Word} {p : Regs → Prop} [∀ r, Decidable (p r)] {code : FaultCode}
    {k : Regs → Except FaultCode Regs} (hp : ∀ r : Regs, r.SameInverse w → (p (r.set .modinv62 w) ↔ p r))
    (hk : IgnoresTopBits w k) : IgnoresTopBits w fun r => require (p r) code >>= fun _ => k r := by
  simp only [require_bind]
  exact .ite hp hk fun _ _ => rfl

variable (w : Word)

theorem initRule_ignoresTopBits : IgnoresTopBits w initRule :=
  .after_require (fun r hw => modinfoValid_of_sameInverse hw r.mod) <| .after_require (fun _ _ => Iff.rfl)
    fun _ _ => rfl

theorem divstepsRule_ignoresTopBits : IgnoresTopBits w divstepsRule :=
  .after_require (fun _ _ => Iff.rfl) <| .after_require (fun _ _ => Iff.rfl) fun _ _ => rfl

theorem updateDeWith_ignoresTopBits {ok : Regs → Prop} [∀ r, Decidable (ok r)]
    (hok : ∀ r, ok (r.set .modinv62 w) ↔ ok r) : IgnoresTopBits w fun r => updateDeWith (ok r) r := by
  refine .after_require (fun r hw => modinfoValid_of_sameInverse hw r.mod) <|
    .after_require (fun _ _ => Iff.rfl) <| .after_require (fun _ _ => Iff.rfl) <|
    .after_require (fun r _ => hok r) <| .after_require (fun r hw => ?_) fun r hw => ?_
  · simp only [Regs.set, Regs.matrix, deRow_of_sameInverse hw]
  · simp only [Regs.set, Regs.matrix, deRow_of_sameInverse hw]
    rfl

theorem updateFgRule_ignoresTopBits : IgnoresTopBits w updateFgRule :=
  .after_require (fun _ _ => Iff.rfl) <| .after_require (fun _ _ => Iff.rfl) <|
    .after_require (fun _ _ => Iff.rfl) <| .after_require (fun _ _ => Iff.rfl) fun _ _ => rfl

theorem normalizeRule_ignoresTopBits : IgnoresTopBits w normalizeRule :=
  .after_require (fun r hw => modinfoValid_of_sameInverse hw r.mod) <| .after_require (fun _ _ => Iff.rfl)
    fun _ _ => rfl

theorem iterateRule_ignoresTopBits : IgnoresTopBits w (iterateRule divstepsRule) := by
  have hcount : IgnoresTopBits w fun r => .ok { r with iter := r.iter + 1 } := fun _ _ => rfl
  have hfg := (updateFgRule_ignoresTopBits w).bind
    (fun r r' h => by obtain ⟨f, g, rfl⟩ := updateFgRule_ok h; rfl) hcount
  have hde : IgnoresTopBits w updateDeDriver := updateDeWith_ignoresTopBits w fun _ => Iff.rfl
  have hdefg := hde.bind (fun r r' h => by obtain ⟨d, e, rfl⟩ := updateDeWith_ok h; rfl) hfg
  exact (divstepsRule_ignoresTopBits w).bind
    (fun r r' h => by obtain ⟨res, rfl⟩ := divstepsRule_ok h; rfl) hdefg

theorem ctLoop_ignoresTopBits (n : Nat) : IgnoresTopBits w (ctLoop n) := by
  induction n with
  | zero => exact ignoresTopBits_ok w
  | succ n ih => exact (iterateRule_ignoresTopBits w).bind (fun _ _ h => (iterateRule_advanced h).modinv62) ih

theorem vtLoop_ignoresTopBits (n : Nat) : IgnoresTopBits w (vtLoop n) := by
  induction n with
  | zero => exact fun _ _ => rfl
  | succ n ih =>
    have hexit : IgnoresTopBits w fun r => if r.g = Limbs.zero then .ok r else vtLoop n r :=
      .ite (fun _ _ => Iff.rfl) (ignoresTopBits_ok w) ih
    exact (iterateRule_ignoresTopBits w).bind (fun _ _ h => (iterateRule_advanced h).modinv62) hexit

theorem driverEnd_ignoresTopBits (checks : Bool) : IgnoresTopBits w (driverEnd checks) := by
  have hcopy : IgnoresTopBits w fun r => .ok { r with x := r.d } := fun _ _ => rfl
  have hend := (normalizeRule_ignoresTopBits w).bind
    (fun r r' h => by obtain ⟨d, rfl⟩ := normalizeRule_ok h; rfl) hcopy
  exact .after_require (fun _ _ => Iff.rfl) hend

/-- INIT, a loop that answers iterations, and the end of a driver. -/
theorem driver_ignoresTopBits (checks : Bool) {loop : Regs → Except FaultCode Regs} (hloop : IgnoresTopBits w loop)
    (hkeep : ∀ r r', loop r = .ok r' → r'.modinv62 = r.modinv62) :
    IgnoresTopBits w fun r => initRule r >>= fun r1 => loop r1 >>= driverEnd checks :=
  (initRule_ignoresTopBits w).bind (fun r r' h => by rw [initRule_ok h])
    (hloop.bind hkeep (driverEnd_ignoresTopBits w checks))

/-- Every command's rule ignores bits 63..62 of MODINV62 (R26). -/
theorem ruleOf_ignoresTopBits (checks : Bool) (i : Instr) : IgnoresTopBits w (ruleOf checks i) := by
  cases i with
  | init => exact initRule_ignoresTopBits w
  | divstepsCt | divstepsVt => exact divstepsRule_ignoresTopBits w
  | updateDe => exact updateDeWith_ignoresTopBits w fun _ => Iff.rfl
  | updateFg => exact updateFgRule_ignoresTopBits w
  | normalize => exact normalizeRule_ignoresTopBits w
  | modinv =>
    exact driver_ignoresTopBits w checks (ctLoop_ignoresTopBits w maxIters)
      fun _ _ h => (iterations_advanced h).modinv62
  | modinvVar =>
    refine driver_ignoresTopBits w checks (vtLoop_ignoresTopBits w maxIters) fun r r' h => ?_
    obtain ⟨k, -, -, hk, -⟩ := vtLoop_eq_ok h
    exact (iterations_advanced hk).modinv62

/-- Settles O32: the command's rule ignores the bits, and its end leaves MODINV62 alone. -/
theorem topBitsOfModinv62AreIgnored : Obligations.TopBitsOfModinv62AreIgnored := by
  intro i s t w hw h
  have hrule : ruleOf s.status.checks i (s.regs.set .modinv62 w) =
      (ruleOf s.status.checks i s.regs).map (·.set .modinv62 w) := ruleOf_ignoresTopBits w _ i s.regs hw
  have hend := conclude_set (c := .modinv62) (by decide) i (ruleOf s.status.checks i s.regs) s w
  rw [exec_eq_conclude] at h
  cases h
  rw [← hrule] at hend
  exact (exec_eq_conclude i _).trans (congrArg Host.Outcome.next hend)

end Sys2Proof.Machine
end

section
/-! SUPPORT. The register window (20_memory.md R41 to R49): what each kind of access does, slot by slot and in each state
of the engine, and the accesses as steps of the machine. -/

namespace Sys2Proof.Machine

variable {s : State} {off : Nat} {v : Word} {c : Reg} {rest : List Event}

/-! ### The map -/

@[simp] theorem slotAt_cmdOffset : slotAt cmdOffset = .cmd := rfl

@[simp] theorem slotAt_statusOffset : slotAt statusOffset = .status := rfl

/-- Settles O4: the map is evaluated at each of the 64 offsets. -/
theorem windowMapIsTheTable : Obligations.WindowMapIsTheTable := by
  unfold Obligations.WindowMapIsTheTable
  decide

/-! ### Reads -/

theorem hostRead_of_reserved_or_cmd (h : slotAt off = .reserved ∨ slotAt off = .cmd) :
    s.hostRead off = s.answer 0 := by
  rcases h with h | h <;> simp [State.hostRead, h]

theorem hostRead_of_status (h : slotAt off = .status) : s.hostRead off = s.answer (statusWord s.status) := by
  simp [State.hostRead, h]

theorem hostRead_reg_of_busy (h : slotAt off = .reg c) (hbusy : s.status.busy = true) :
    s.hostRead off = s.answerUnspecified := by
  simp [State.hostRead, h, hbusy]

/-- A register that a fault draws for reads as a free value after it (R49). -/
theorem hostRead_reg_of_lost (h : slotAt off = .reg c) (hfault : s.status.fault = true) (hc : c ∈ faultedRegs) :
    s.hostRead off = s.answerUnspecified := by
  have hlost : survivesFault c = false := by simpa [hc] using survivesFault_iff c
  simp [State.hostRead, h, hfault, hlost]

/-- A register holds its value while nothing runs, unless a fault drew for it (R47, R49). -/
theorem hostRead_reg_of_kept (h : slotAt off = .reg c) (hbusy : s.status.busy = false)
    (hc : s.status.fault = false ∨ c ∉ faultedRegs) : s.hostRead off = s.answer (s.regs.get c) := by
  have hkept : s.status.fault = false ∨ survivesFault c = true := hc.imp_right (survivesFault_iff c).2
  rcases hkept with hkept | hkept <;> simp [State.hostRead, h, hbusy, hkept]

/-- What a ready engine returns depends on the registers and STATUS only (R47). -/
theorem hostRead_of_ready (hs : s.Ready) (off : Nat) :
    ∃ v, ∀ t : State, t.regs = s.regs → t.status = s.status → t.hostRead off = t.answer v := by
  obtain ⟨hbusy, hfault⟩ := hs
  cases h : slotAt off with
  | cmd => exact ⟨0, fun _ _ _ => hostRead_of_reserved_or_cmd (.inr h)⟩
  | reserved => exact ⟨0, fun _ _ _ => hostRead_of_reserved_or_cmd (.inl h)⟩
  | status => exact ⟨statusWord s.status, fun t _ ht => ht ▸ hostRead_of_status h⟩
  | reg c =>
    refine ⟨s.regs.get c, fun t hr ht => hr ▸ hostRead_reg_of_kept h ?_ (.inl ?_)⟩
    · rw [ht, hbusy]
    · rw [ht, hfault]

/-! ### Writes -/

/-- A slot to which a write does nothing, whatever the engine's state (R46). -/
abbrev Slot.IgnoresWrites (sl : Slot) : Prop := sl = .reserved ∨ sl = .status ∨ sl = .reg .iter

/-- A slot to which a write stores or acts, when the engine takes it (R47, R63). -/
abbrev Slot.TakesWrites (sl : Slot) : Prop := sl = .cmd ∨ ∃ c, sl = .reg c ∧ c ≠ .iter

theorem guardedWrite_of_fault (hfault : s.status.fault = true) (effect : State → State) :
    s.guardedWrite effect = s := by
  simp [State.guardedWrite, hfault]

theorem guardedWrite_of_busy (hbusy : s.status.busy = true) (hfault : s.status.fault = false)
    (effect : State → State) : s.guardedWrite effect = s.raiseFault .busyWrite := by
  simp [State.guardedWrite, hbusy, hfault]

theorem guardedWrite_of_ready (hs : s.Ready) (effect : State → State) : s.guardedWrite effect = effect s := by
  obtain ⟨hbusy, hfault⟩ := hs
  simp [State.guardedWrite, hbusy, hfault]

theorem hostWrite_of_ignored (h : Slot.IgnoresWrites (slotAt off)) : s.hostWrite off v = s := by
  rcases h with h | h | h <;> simp [State.hostWrite, h]

theorem hostWrite_of_cmd (h : slotAt off = .cmd) :
    s.hostWrite off v = s.guardedWrite (State.acceptCommand v) := by
  simp [State.hostWrite, h]

theorem hostWrite_of_reg (h : slotAt off = .reg c) (hc : c ≠ .iter) :
    s.hostWrite off v = s.guardedWrite fun t => { t with regs := t.regs.set c v } := by
  unfold State.hostWrite
  rw [h]
  cases c with
  | iter => exact absurd rfl hc
  | _ => rfl

/-- After a fault no write changes anything (R49). -/
theorem hostWrite_of_fault (hfault : s.status.fault = true) : s.hostWrite off v = s := by
  obtain h | ⟨-, h⟩ | ⟨c, -, -, h⟩ := hostWrite_cases off v s
  · exact h
  · exact h.trans (guardedWrite_of_fault hfault _)
  · exact h.trans (guardedWrite_of_fault hfault _)

/-- While a command runs, a write that would store or act is dropped and faults (R48). -/
theorem hostWrite_of_busy (hbusy : s.status.busy = true) (hfault : s.status.fault = false)
    (h : Slot.TakesWrites (slotAt off)) : s.hostWrite off v = s.raiseFault .busyWrite := by
  obtain h | ⟨c, h, hc⟩ := h
  · rw [hostWrite_of_cmd h, guardedWrite_of_busy hbusy hfault]
  · rw [hostWrite_of_reg h hc, guardedWrite_of_busy hbusy hfault]

/-- A ready engine stores a register write (R47). -/
theorem hostWrite_of_ready (hs : s.Ready) (h : slotAt off = .reg c) (hc : c ≠ .iter) :
    s.hostWrite off v = { s with regs := s.regs.set c v } := by
  rw [hostWrite_of_reg h hc, guardedWrite_of_ready hs]

/-! ### The accesses as steps -/

theorem accessWf_iff {width : Nat} : accessWf off width = true ↔ width = 8 ∧ off % 8 = 0 ∧ off < 0x200 := by
  simp [accessWf, and_assoc]

theorem accessWf_eight (halign : off % 8 = 0) (hin : off < 0x200) : accessWf off 8 = true :=
  accessWf_iff.2 ⟨rfl, halign, hin⟩

theorem accessWf_regOffset (c : Reg) : accessWf (regOffset c) 8 = true := by
  cases c with
  | limb V i => cases V <;> fin_cases i <;> rfl
  | _ => rfl

/-- The reasons an access can be refused for (R44). -/
theorem accessRefusal_cases {width : Nat} {why : Refusal} (h : accessRefusal off width = some why) :
    why = .accessWidth ∨ why = .misaligned ∨ why = .outsideWindow := by
  unfold accessRefusal at h
  split_ifs at h <;> cases h
  · exact .inl rfl
  · exact .inr (.inl rfl)
  · exact .inr (.inr rfl)

theorem step_refused {width : Nat} {why : Refusal}
    (hscript : s.script = .read off width :: rest ∨ s.script = .write off width v :: rest)
    (h : accessRefusal off width = some why) : step s = .refused why := by
  rcases hscript with hscript | hscript <;> simp [step_cons hscript, applyEvent, h]

/-- An admitted read steps to what the window answers; `h` is the window's rule for its slot. -/
theorem step_read {t : State} (hscript : s.script = .read off 8 :: rest) (hwf : accessWf off 8 = true)
    (h : State.hostRead off { s with script := rest } = t) : step s = .next t := by
  simp [step_cons hscript, applyEvent, (accessRefusal_eq_none off 8).2 hwf, h]

/-- An admitted write steps to what the window does with it; `h` is the window's rule for its slot. -/
theorem step_write {t : State} (hscript : s.script = .write off 8 v :: rest) (hwf : accessWf off 8 = true)
    (h : State.hostWrite off v { s with script := rest } = t) : step s = .next t := by
  simp [step_cons hscript, applyEvent, (accessRefusal_eq_none off 8).2 hwf, h]

/-- The engine's turn on a running command is that command (R67). -/
theorem step_complete_of_busy {i : Instr} (hscript : s.script = .complete :: rest) (hbusy : s.status.busy = true)
    (hd : decode (fetchWord s) = .ok i) : step s = exec i { s with script := rest } := by
  have hd' : decode (fetchWord { s with script := rest }) = .ok i := hd
  simp [step_cons hscript, applyEvent, completeStep, hbusy, hd']

/-- The engine's turn while nothing runs passes (log 2). -/
theorem step_complete_of_not_busy (hscript : s.script = .complete :: rest) (hbusy : s.status.busy = false) :
    step s = .next { s with script := rest } := by
  simp [step_cons hscript, applyEvent, completeStep, hbusy]

/-- A run takes the step first. -/
theorem run_succ_of_step {t : State} (h : step s = .next t) (k : Nat) : core.run (k + 1) s = core.run k t := by
  have hstep : core.step s = .next t := h
  simp only [Host.Core.run, hstep]

/-- Two steps that answer make a run of two. -/
theorem run_two {t u : State} (h : step s = .next t) (h' : step t = .next u) : core.run 2 s = .next u := by
  rw [run_succ_of_step h, run_succ_of_step h']
  rfl

/-- A write to a slot that ignores it passes (R46). -/
theorem step_write_of_ignored (hscript : s.script = .write off 8 v :: rest) (hwf : accessWf off 8 = true)
    (h : Slot.IgnoresWrites (slotAt off)) : step s = .next { s with script := rest } :=
  step_write hscript hwf (hostWrite_of_ignored h)

/-- A write that races a running command is dropped and faults (R48). -/
theorem step_write_of_busy (hscript : s.script = .write off 8 v :: rest) (hwf : accessWf off 8 = true)
    (hbusy : s.status.busy = true) (hfault : s.status.fault = false) (h : Slot.TakesWrites (slotAt off)) :
    step s = .next (State.raiseFault .busyWrite { s with script := rest }) :=
  step_write hscript hwf (hostWrite_of_busy hbusy hfault h)

/-- A read of a reserved offset or of CMD returns 0 in every state (R46, R33). -/
theorem step_read_zero (hscript : s.script = .read off 8 :: rest) (hwf : accessWf off 8 = true)
    (h : slotAt off = .reserved ∨ slotAt off = .cmd) :
    step s = .next { s with script := rest, readData := 0 :: s.readData } :=
  step_read hscript hwf (hostRead_of_reserved_or_cmd h)

/-- A read of STATUS returns its value in every state (R48, R49). -/
theorem step_read_status (hscript : s.script = .read off 8 :: rest) (hwf : accessWf off 8 = true)
    (h : slotAt off = .status) :
    step s = .next { s with script := rest, readData := statusWord s.status :: s.readData } :=
  step_read hscript hwf (hostRead_of_status h)

/-- A read of a register that holds its value returns it (R47, R49). -/
theorem step_read_reg (hscript : s.script = .read (regOffset c) 8 :: rest) (hbusy : s.status.busy = false)
    (hc : s.status.fault = false ∨ c ∉ faultedRegs) :
    step s = .next { s with script := rest, readData := s.regs.get c :: s.readData } :=
  step_read hscript (accessWf_regOffset c) (hostRead_reg_of_kept (slotAt_regOffset c) hbusy hc)

/-! ### The statements about single accesses -/

/-- Settles O5. -/
theorem onlyAlignedWordAccessesAreAccepted : Obligations.OnlyAlignedWordAccessesAreAccepted := by
  intro s rest off width v hscript
  refine ⟨fun hbad => ?_, fun ⟨hwidth, halign, hin⟩ => ?_⟩
  · cases hr : accessRefusal off width with
    | none =>
      obtain ⟨hwidth, halign, hin⟩ := accessWf_iff.1 ((accessRefusal_eq_none off width).1 hr)
      omega
    | some why =>
      have hstep := step_refused hscript hr
      obtain rfl | rfl | rfl := accessRefusal_cases hr
      · exact .inl hstep
      · exact .inr (.inl hstep)
      · exact .inr (.inr hstep)
  · subst hwidth
    have hwf := accessWf_eight halign hin
    rcases hscript with hscript | hscript
    · exact ⟨_, step_read hscript hwf rfl⟩
    · exact ⟨_, step_write hscript hwf rfl⟩

/-- Settles O6: the offsets named are those of reserved slots, of STATUS, of ITER and of CMD. -/
theorem ignoredAccessesChangeNothing : Obligations.IgnoredAccessesChangeNothing := by
  intro s rest off v
  refine ⟨fun ⟨halign, hin, hslot⟩ => ?_, fun hscript => ?_, fun hscript => ?_⟩
  · have hwf := accessWf_eight halign hin
    exact ⟨fun h => step_read_zero h hwf (.inl hslot), fun h => step_write_of_ignored h hwf (.inl hslot)⟩
  · rcases hscript with hscript | hscript
    · exact step_write_of_ignored hscript rfl (.inr (.inl slotAt_statusOffset))
    · exact step_write_of_ignored hscript rfl (.inr (.inr (slotAt_regOffset .iter)))
  · exact step_read_zero hscript rfl (.inr slotAt_cmdOffset)

/-- Settles O7: a repeated read returns the same value because a read changes neither the registers nor STATUS. -/
theorem idleWritesStoreAndReadsReturn : Obligations.IdleWritesStoreAndReadsReturn := by
  intro s rest hs
  refine ⟨fun c v hc hscript => ?_, fun c hscript => ?_, fun off halign hin hscript => ?_⟩
  · exact ⟨{ s with script := rest, regs := s.regs.set c v },
      step_write hscript (accessWf_regOffset c) (hostWrite_of_ready hs (slotAt_regOffset c) hc),
      get_set_same s.regs c v, fun c' hc' => get_set_other s.regs (by simpa using hc') v, rfl, rfl, rfl, rfl⟩
  · obtain ⟨hbusy, hfault⟩ := hs
    exact step_read_reg hscript hbusy (.inl hfault)
  · have hwf := accessWf_eight halign hin
    obtain ⟨v, hread⟩ := hostRead_of_ready hs off
    exact ⟨v, run_two (step_read hscript hwf (hread _ rfl rfl)) (step_read rfl hwf (hread _ rfl rfl))⟩

/-- Settles O8: one rule of the window for each kind of slot. -/
theorem accessesWhileBusy : Obligations.AccessesWhileBusy := by
  intro s rest off v hbusy hfault halign hin
  have hwf := accessWf_eight halign hin
  exact ⟨fun hscript => ⟨step_read_status hscript hwf, step_read_zero hscript hwf,
      fun c hslot => step_read hscript hwf (hostRead_reg_of_busy hslot hbusy)⟩,
    fun hscript => ⟨step_write_of_ignored hscript hwf, fun hslot =>
      ⟨_, step_write_of_busy hscript hwf hbusy hfault hslot, raiseFault_faultedFrom _ _⟩⟩⟩

/-! ### After a fault -/

/-- Nothing but reset changes the registers or STATUS of a faulted engine (R49, R118). -/
theorem StepEffect.of_fault {t : State} (h : StepEffect s t) (hfault : s.status.fault = true)
    (hbusy : s.status.busy = false) (hreset : ∀ rest, s.script ≠ .reset :: rest) :
    t.regs = s.regs ∧ t.status = s.status := by
  cases h with
  | quiet hregs hstatus => exact ⟨hregs, hstatus⟩
  | reset hscript => exact absurd hscript (hreset _)
  | store _ _ _ hready | accept hready | illegal hready =>
    obtain ⟨-, hnofault⟩ := hready
    simp [hfault] at hnofault
  | busyWrite hrun | completed hrun | checkFault hrun | unspecified hrun => simp [hbusy] at hrun

/-- Settles O9: the registers that keep their value are those a fault does not draw for. -/
theorem accessesAfterAFault : Obligations.AccessesAfterAFault := by
  intro s rest hfault hbusy
  refine ⟨fun hscript => step_read_status hscript rfl slotAt_statusOffset,
    fun c hc hscript => step_read_reg hscript hbusy (.inr ((not_mem_faultedRegs_iff c).2 hc)),
    fun hscript => step_read_zero hscript rfl (.inr slotAt_cmdOffset),
    fun c hinv hmod hscript => ?_, fun off v halign hin hscript => ?_, fun ev t hev hscript hstep => ?_⟩
  · have hc : c ∈ faultedRegs := by
      by_contra hkept
      exact ((not_mem_faultedRegs_iff c).1 hkept).elim hinv fun ⟨i, hi⟩ => hmod i hi
    exact step_read hscript (accessWf_regOffset c) (hostRead_reg_of_lost (slotAt_regOffset c) hfault hc)
  · exact step_write hscript (accessWf_eight halign hin) (hostWrite_of_fault hfault)
  · have hreset : ∀ rest', s.script ≠ .reset :: rest' := by
      rintro rest' h
      rw [hscript] at h
      exact hev (List.cons.inj h).1
    obtain ⟨-, hstatus⟩ := (step_effect hstep).of_fault hfault hbusy hreset
    simp [hstatus, hfault]

/-! ### While a command runs -/

/-- A running engine has not faulted (R34). -/
theorem State.Inv.fault_of_busy (hs : s.Inv) (hbusy : s.status.busy = true) : s.status.fault = false := by
  obtain ⟨⟨-, hexcl, -⟩, -⟩ := hs
  simpa [hbusy] using hexcl

/-- While a command runs a host write does nothing or faults (R48). -/
theorem hostWrite_busy_cases (hbusy : s.status.busy = true) (hfault : s.status.fault = false) (off : Nat) (v : Word) :
    s.hostWrite off v = s ∨ s.hostWrite off v = s.raiseFault .busyWrite := by
  obtain h | ⟨-, h⟩ | ⟨c, -, -, h⟩ := hostWrite_cases off v s
  · exact .inl h
  · exact .inr (h.trans (guardedWrite_of_busy hbusy hfault _))
  · exact .inr (h.trans (guardedWrite_of_busy hbusy hfault _))

/-- Settles O24: a read only answers, and a write does nothing or faults. -/
theorem registersHoldStillWhileBusy : Obligations.RegistersHoldStillWhileBusy := by
  intro s t ev rest hs hbusy hscript hreset hcomplete hstep
  rw [step_cons hscript] at hstep
  obtain ⟨off, width, -, -, rfl⟩ | ⟨off, width, v, rfl, hacc, rfl⟩ | ⟨h, -⟩ | ⟨h, -⟩ := applyEvent_cases hstep
  · obtain ⟨v, h⟩ | h := hostRead_cases off { s with script := rest } <;> rw [h] <;> exact .inl ⟨rfl, rfl⟩
  · obtain ⟨rfl, -⟩ := accessWf_iff.1 ((accessRefusal_eq_none off width).1 hacc)
    obtain h | h := hostWrite_busy_cases (s := { s with script := rest }) hbusy (hs.fault_of_busy hbusy) off v
    · exact .inl (by rw [h]; exact ⟨rfl, rfl⟩)
    · exact .inr ⟨off, v, rfl, h ▸ raiseFault_faultedFrom _ _⟩
  · exact absurd h hreset
  · exact absurd h hcomplete

/-- The end of a command does not look at the events still to come. -/
theorem conclude_withScript (cells : List Reg) (res : Except FaultCode Regs) (s : State) (l : List Event) :
    State.conclude cells res { s with script := l } = { s.conclude cells res with script := l } := by
  cases res with
  | ok r => rfl
  | error code =>
    simp only [State.conclude]
    split <;> rfl

/-- A command that ends runs no more (R65, R113). -/
theorem conclude_busy (cells : List Reg) (res : Except FaultCode Regs) (s : State) :
    (s.conclude cells res).status.busy = false := by
  obtain ⟨r, -, h⟩ | ⟨code, -, -, h⟩ | ⟨code, -, -, h⟩ := conclude_cases cells res s <;> simp [h]

theorem conclude_script (cells : List Reg) (res : Except FaultCode Regs) (s : State) :
    (s.conclude cells res).script = s.script := by
  obtain ⟨r, -, h⟩ | ⟨code, -, -, h⟩ | ⟨code, -, -, h⟩ := conclude_cases cells res s <;> simp [h]

/-- What a command answers: an engine that runs nothing, with the events to come as they were, and the same answer
whatever they are (R65, R112, R114). -/
theorem exec_next {i : Instr} {t : State} (h : exec i s = .next t) :
    t.status.busy = false ∧ t.script = s.script ∧
      ∀ l, exec i { s with script := l } = .next { t with script := l } := by
  rw [exec_eq_conclude] at h
  cases h
  exact ⟨conclude_busy _ _ s, conclude_script _ _ s, fun l => by rw [exec_eq_conclude, conclude_withScript]⟩

/-- Settles O27: after the completion the engine is ready and the write stores; before it the write faults, and the
engine's turn then passes. -/
theorem racingWriteHasTwoOutcomes : Obligations.RacingWriteHasTwoOutcomes := by
  intro s i c v rest hs hbusy hd hc
  refine ⟨fun hscript t hexec hnofault => ?_, fun hscript => ?_⟩
  · obtain ⟨hidle, hrest, hany⟩ := exec_next hexec
    have hfirst := (step_complete_of_busy hscript hbusy hd).trans (hany _)
    have hstore := hostWrite_of_ready (v := v) ⟨hidle, hnofault⟩ (slotAt_regOffset c) hc
    subst hrest
    exact run_two hfirst (step_write rfl (accessWf_regOffset c) hstore)
  · have hfirst := step_write_of_busy hscript (accessWf_regOffset c) hbusy (hs.fault_of_busy hbusy)
      (.inr ⟨c, slotAt_regOffset c, hc⟩)
    exact ⟨State.raiseFault .busyWrite { s with script := rest },
      run_two hfirst (step_complete_of_not_busy rfl rfl), raiseFault_faultedFrom _ _⟩

end Sys2Proof.Machine
end

section
/-! SUPPORT. The command words (30_encoding.md R57 to R62): which they are, the decoder on words and on bytes, and the
acceptance of a word written to CMD (R62, R63). -/

namespace Sys2Proof.Machine

/-! ### Words -/

/-- An OP names the command that has its number (R60). -/
theorem opNumber_of_instrOfOp {op : Byte} {i : Instr} (h : instrOfOp op = some i) : op.toNat = i.opNumber := by
  unfold instrOfOp at h
  split at h <;> cases h <;> assumption

theorem decode_encode (i : Instr) : decode (encode i) = .ok i := by cases i <;> rfl

theorem encode_toNat (i : Instr) : (encode i).toNat = i.opNumber := by cases i <;> rfl

/-- A decoded word's OP names the command (R60). -/
theorem instrOfOp_of_decode {w : Word} {i : Instr} (h : decode w = .ok i) : instrOfOp (opField w) = some i := by
  simp only [decode, rsvField_of_decode h, ne_eq, not_true_eq_false, if_false] at h
  split at h <;> cases h
  assumption

/-- A word decodes to a command exactly when it is that command's word (R60). -/
theorem decode_eq_ok_iff {w : Word} {i : Instr} : decode w = .ok i ↔ w = encode i := by
  constructor
  · intro h
    have hop : (opField w).toNat = (encode i).toNat :=
      (opNumber_of_instrOfOp (instrOfOp_of_decode h)).trans (encode_toNat i).symm
    have hw := congrArg BitVec.toNat (zeroExtend_opField h)
    have hlt := (opField w).isLt
    apply BitVec.eq_of_toNat_eq
    simp only [BitVec.truncate_eq_setWidth, BitVec.toNat_setWidth] at hw
    omega
  · rintro rfl
    exact decode_encode i

/-- The command words are the numbers 1 to 8 (R60). -/
theorem exists_decode_iff (w : Word) : (∃ i, decode w = .ok i) ↔ 1 ≤ w.toNat ∧ w.toNat ≤ 8 := by
  simp only [decode_eq_ok_iff]
  constructor
  · rintro ⟨i, rfl⟩
    cases i <;> decide
  · rintro ⟨h1, h8⟩
    have hi : ∃ i : Instr, w.toNat = i.opNumber := by
      interval_cases w.toNat
      exacts [⟨.init, rfl⟩, ⟨.divstepsCt, rfl⟩, ⟨.divstepsVt, rfl⟩, ⟨.updateDe, rfl⟩, ⟨.updateFg, rfl⟩,
        ⟨.normalize, rfl⟩, ⟨.modinv, rfl⟩, ⟨.modinvVar, rfl⟩]
    obtain ⟨i, hi⟩ := hi
    exact ⟨i, BitVec.eq_of_toNat_eq (hi.trans (encode_toNat i).symm)⟩

/-- Settles O1. -/
theorem commandWordsAreExactlyTheTable : Obligations.CommandWordsAreExactlyTheTable := fun w =>
  ⟨decode_eq_ok_iff, decode_eq_ok_iff, decode_eq_ok_iff, decode_eq_ok_iff, decode_eq_ok_iff, decode_eq_ok_iff,
    decode_eq_ok_iff, decode_eq_ok_iff, exists_decode_iff w⟩

/-- The illegal words are those that are no command's (R62). -/
theorem exists_decode_error_iff (w : Word) :
    (∃ why, decode w = .error why) ↔ ¬(1 ≤ w.toNat ∧ w.toNat ≤ 8) := by
  rw [← exists_decode_iff]
  cases decode w <;> simp

/-! ### Bytes -/

/-- The bytes of a word make the word (R43). -/
theorem wordOfBytes_wordBytes (w : Word) : wordOfBytes (wordBytes w) = w := by
  have hw := w.isLt
  apply BitVec.eq_of_toNat_eq
  simp only [wordOfBytes, wordBytes, List.range_succ, List.range_zero, List.map_nil, List.map_cons,
    List.nil_append, List.cons_append, List.foldr_cons, List.foldr_nil, BitVec.toNat_ofNat,
    BitVec.extractLsb'_toNat, Nat.shiftRight_eq_div_pow]
  omega

theorem wordBytes_length (w : Word) : (wordBytes w).length = 8 := by simp [wordBytes]

/-- A command's bytes in front of others decode to the command and leave the others (R59). -/
theorem decodeBytes_wordBytes {w : Word} {i : Instr} (h : decode w = .ok i) (rest : List Byte) :
    decodeBytes (wordBytes w ++ rest) = .ok (i, rest) := by
  have hlen := wordBytes_length w
  have hlong : ¬(wordBytes w ++ rest).length < 8 := by simp [hlen]
  simp only [decodeBytes, if_neg hlong, List.take_left' hlen, List.drop_left' hlen, wordOfBytes_wordBytes, h]

/-- The 64 bits of a command's word decode to the command (R59). -/
theorem decodeTableWord_of_decode {w : Word} {i : Instr} (h : decode w = .ok i) :
    decodeTableWord 64 w.toNat = some i := by
  have hmod : w.toNat % 2 ^ 64 = w.toNat := w.toNat_mod_cancel
  have hbytes : decodeBytes (wordBytes w) = .ok (i, []) := by simpa using decodeBytes_wordBytes h []
  simp only [decodeTableWord, hmod, w.isLt, if_true, BitVec.ofNat_toNat, BitVec.setWidth_eq, hbytes]

/-- Settles O2: the bytes of the command's word make the word again. -/
theorem decodeOfEncodeIsTheCommand : Obligations.DecodeOfEncodeIsTheCommand := fun i =>
  ⟨by cases i <;> rfl, decode_encode i, decodeTableWord_of_decode (decode_encode i),
    decodeBytes_wordBytes (decode_encode i)⟩

/-! ### Acceptance -/

/-- `s` with the OP of `w` recorded and DONE cleared, in the terms of the statements (R63). -/
def State.recordWord (w : Word) (s : State) : State :=
  { s with status := { s.status with lastop := BitVec.ofNat 8 w.toNat, done := false } }

/-- A command's word starts the command (R63). -/
theorem acceptCommand_of_ok {w : Word} {i : Instr} (h : decode w = .ok i) (s : State) :
    s.acceptCommand w = { s.recordWord w with status := statusBusy (s.recordWord w).status } := by
  simp only [State.acceptCommand, h]
  rfl

/-- Any other word raises ILLEGAL_CMD (R62). -/
theorem acceptCommand_of_error {w : Word} {why : DecodeError} (h : decode w = .error why) (s : State) :
    s.acceptCommand w = (s.recordWord w).raiseFault .illegalCmd := by
  simp only [State.acceptCommand, h]
  rfl

variable {s : State} {w : Word} {rest : List Event}

/-- A word written to CMD of a ready engine is accepted or refused by the decoder alone (R63). -/
theorem step_write_cmd_of_ready (hs : s.Ready) (hscript : s.script = .write 0x000 8 w :: rest) :
    step s = .next (State.acceptCommand w { s with script := rest }) :=
  step_write hscript rfl
    ((hostWrite_of_cmd slotAt_cmdOffset).trans (guardedWrite_of_ready (s := { s with script := rest }) hs _))

/-- An illegal word written to CMD of a ready engine raises ILLEGAL_CMD (R62). -/
theorem step_write_illegal (hs : s.Ready) (hscript : s.script = .write 0x000 8 w :: rest) {why : DecodeError}
    (h : decode w = .error why) :
    ∃ t, step s = .next t ∧ State.FaultedFrom .illegalCmd (State.recordWord w { s with script := rest }) t :=
  ⟨_, (step_write_cmd_of_ready hs hscript).trans (congrArg _ (acceptCommand_of_error h _)),
    raiseFault_faultedFrom _ _⟩

/-- Settles O3: an illegal word's number is not one of 1 to 8. -/
theorem illegalWordsRaiseIllegalCmd : Obligations.IllegalWordsRaiseIllegalCmd := by
  refine fun w => ⟨?_, fun s rest hs hscript ⟨why, h⟩ => step_write_illegal hs hscript h⟩
  rw [exists_decode_error_iff]
  omega

/-- Settles O11: the window's rules for a write after a fault and while busy, then the two answers of the decoder. -/
theorem acceptanceOfACommandWord : Obligations.AcceptanceOfACommandWord := by
  intro s rest w hscript
  refine ⟨fun hfault => ?_, fun hfault hbusy => ?_, fun hs i h => ?_, fun hs why h => ?_⟩
  · exact step_write hscript rfl (hostWrite_of_fault hfault)
  · exact ⟨_, step_write_of_busy hscript rfl hbusy hfault (.inl slotAt_cmdOffset), raiseFault_faultedFrom _ _⟩
  · rw [step_write_cmd_of_ready hs hscript, acceptCommand_of_ok h]
    rfl
  · exact step_write_illegal hs hscript h

/-- Settles O19. -/
theorem stepRunsTheDecodedCommand : Obligations.StepRunsTheDecodedCommand := by
  refine fun s i hbusy h => ⟨fun hscript => ?_, fun rest hscript => step_complete_of_busy hscript hbusy h⟩
  simp [step_nil hscript, completeStep, hbusy, h]

end Sys2Proof.Machine
end

section
/-! SUPPORT. The end of every command (30_encoding.md R64, R65; 60_exceptions.md R112), the frames of the commands that
do not fault (R61, R66), and what their results depend on (R61, R67). -/

namespace Sys2Proof.Machine

/-- Settles O12: a command ends by completion, by the fault of its check, or with free destinations. -/
theorem everyCommandCompletesOrFaults : Obligations.EveryCommandCompletesOrFaults := by
  intro i s
  refine ⟨_, exec_eq_conclude i s, ?_⟩
  obtain ⟨r, -, h⟩ | ⟨code, hrule, hchecks, h⟩ | ⟨code, -, -, h⟩ :=
    conclude_cases (writesOf i) (ruleOf s.status.checks i s.regs) s <;> rw [h]
  · exact ⟨rfl, rfl, rfl, ⟨rfl, rfl⟩, .inl ⟨rfl, rfl, rfl⟩⟩
  · exact ⟨rfl, rfl, rfl, ⟨rfl, rfl⟩, .inr ⟨hchecks, rfl, rfl, ruleOf_failsByCheck _ i s.regs code hrule⟩⟩
  · exact ⟨rfl, rfl, rfl, ⟨rfl, rfl⟩, .inl ⟨rfl, rfl, rfl⟩⟩

/-! ### Frames -/

/-- A property of the registers holds after a command that does not fault when the command's rule gives it, and free
destinations give it; STATUS says completion, and the surroundings stay (R61, R66). -/
theorem frame_of_exec {i : Instr} {s t : State} {P : Regs → Prop}
    (hrule : ∀ r, ruleOf s.status.checks i s.regs = .ok r → P r)
    (hfree : ∀ r, Regs.SameOutside (writesOf i) s.regs r → P r)
    (hfault : t.status.fault = false) (h : exec i s = .next t) :
    P t.regs ∧ t.status = { s.status with busy := false, done := true } ∧ State.SameSurroundings s t := by
  rw [exec_eq_conclude] at h
  cases h
  obtain ⟨r, hr, h⟩ | ⟨code, -, -, h⟩ | ⟨code, -, -, h⟩ :=
    conclude_cases (writesOf i) (ruleOf s.status.checks i s.regs) s <;> rw [h] at hfault ⊢
  · exact ⟨hrule r hr, rfl, rfl, rfl⟩
  · simp at hfault
  · exact ⟨hfree _ fun _ hc => unspecifyRegs_other hc s.draws s.regs, rfl, rfl, rfl⟩

section SameOutside
variable {r r' : Regs}

/-- What is the same outside INIT's destinations is the same but for six registers (R61). -/
theorem Regs.SameOutside.init (h : Regs.SameOutside (writesOf .init) r r') :
    r' = { r with d := r'.d, e := r'.e, f := r'.f, g := r'.g, eta := r'.eta, iter := r'.iter } := by
  refine regs_ext_get fun c => ?_
  cases c with
  | eta | iter => rfl
  | tu | tv | tq | tr | modinv62 => exact h _ (by decide)
  | limb V i =>
    cases V with
    | d | e | f | g => rfl
    | mod | x => exact h _ (by simp [writesOf, limbCells])

/-- What is the same outside the destinations of a divstep command is the same but for ETA and the matrix (R61). -/
theorem Regs.SameOutside.divsteps (h : Regs.SameOutside (writesOf .divstepsCt) r r') :
    r' = { r with eta := r'.eta, tu := r'.tu, tv := r'.tv, tq := r'.tq, tr := r'.tr } := by
  refine regs_ext_get fun c => ?_
  cases c with
  | eta | tu | tv | tq | tr => rfl
  | iter | modinv62 => exact h _ (by decide)
  | limb V i => exact h _ (by simp [writesOf, matrixCells])

/-- What is the same outside UPDATE_DE's destinations is the same but for D and E (R61). -/
theorem Regs.SameOutside.updateDe (h : Regs.SameOutside (writesOf .updateDe) r r') :
    r' = { r with d := r'.d, e := r'.e } := by
  refine regs_ext_get fun c => ?_
  cases c with
  | eta | iter | tu | tv | tq | tr | modinv62 => exact h _ (by decide)
  | limb V i =>
    cases V with
    | d | e => rfl
    | mod | x | f | g => exact h _ (by simp [writesOf, limbCells])

/-- What is the same outside UPDATE_FG's destinations is the same but for F and G (R61). -/
theorem Regs.SameOutside.updateFg (h : Regs.SameOutside (writesOf .updateFg) r r') :
    r' = { r with f := r'.f, g := r'.g } := by
  refine regs_ext_get fun c => ?_
  cases c with
  | eta | iter | tu | tv | tq | tr | modinv62 => exact h _ (by decide)
  | limb V i =>
    cases V with
    | f | g => rfl
    | mod | x | d | e => exact h _ (by simp [writesOf, limbCells])

/-- What is the same outside NORMALIZE's destinations is the same but for D (R61). -/
theorem Regs.SameOutside.normalize (h : Regs.SameOutside (writesOf .normalize) r r') :
    r' = { r with d := r'.d } := by
  refine regs_ext_get fun c => ?_
  cases c with
  | eta | iter | tu | tv | tq | tr | modinv62 => exact h _ (by decide)
  | limb V i =>
    cases V with
    | d => rfl
    | mod | x | e | f | g => exact h _ (by simp [writesOf, limbCells])

end SameOutside

/-- Settles O28; the two divstep commands have one meaning (R80, R82). -/
theorem frameOfInitAndDivsteps : Obligations.FrameOfInitAndDivsteps := by
  intro s t hfault
  refine ⟨fun h => ?init, fun h => ?divsteps⟩
  case init =>
    refine frame_of_exec (P := fun r => r = { s.regs with
      d := r.d, e := r.e, f := r.f, g := r.g, eta := r.eta, iter := r.iter })
      (fun r hr => ?_) (fun _ => Regs.SameOutside.init) hfault h
    obtain rfl := initRule_ok hr
    rfl
  case divsteps =>
    have hexec : exec .divstepsCt s = .next t := h.elim id id
    refine frame_of_exec (i := .divstepsCt) (P := fun r => r = { s.regs with
      eta := r.eta, tu := r.tu, tv := r.tv, tq := r.tq, tr := r.tr })
      (fun r hr => ?_) (fun _ => Regs.SameOutside.divsteps) hfault hexec
    obtain ⟨res, rfl⟩ := divstepsRule_ok hr
    rfl

/-- Settles O29. -/
theorem frameOfUpdatesAndNormalize : Obligations.FrameOfUpdatesAndNormalize := by
  intro s t hfault
  refine ⟨fun h => ?_, fun h => ?_, fun h => ?_⟩
  · refine frame_of_exec (P := fun r => r = { s.regs with d := r.d, e := r.e })
      (fun r hr => ?_) (fun _ => Regs.SameOutside.updateDe) hfault h
    obtain ⟨d, e, rfl⟩ := updateDeWith_ok hr
    rfl
  · refine frame_of_exec (P := fun r => r = { s.regs with f := r.f, g := r.g })
      (fun r hr => ?_) (fun _ => Regs.SameOutside.updateFg) hfault h
    obtain ⟨f, g, rfl⟩ := updateFgRule_ok hr
    rfl
  · refine frame_of_exec (P := fun r => r = { s.regs with d := r.d })
      (fun r hr => ?_) (fun _ => Regs.SameOutside.normalize) hfault h
    obtain ⟨d, rfl⟩ := normalizeRule_ok hr
    rfl

/-- No command that does not fault changes MOD or MODINV62 (R25, R26). -/
theorem modulus_of_exec {i : Instr} {s t : State} (hfault : t.status.fault = false) (h : exec i s = .next t) :
    (t.regs.mod = s.regs.mod ∧ t.regs.modinv62 = s.regs.modinv62) ∧
      t.status = { s.status with busy := false, done := true } ∧ State.SameSurroundings s t := by
  refine frame_of_exec (P := fun r => r.mod = s.regs.mod ∧ r.modinv62 = s.regs.modinv62)
    (fun r hr => ?_) (fun r hr => ?_) hfault h
  · obtain ⟨hmod, hinv, -⟩ := ruleOf_ok hr
    exact ⟨hmod, hinv⟩
  · exact Regs.SameOutside.modulus fun c hc => hr c fun hw => hc (writesOf_subset_faultedRegs i c hw)

/-- Settles O30. -/
theorem frameOfDrivers : Obligations.FrameOfDrivers := by
  intro s t hfault h
  obtain ⟨⟨hmod, hinv⟩, hrest⟩ := h.elim (modulus_of_exec hfault) (modulus_of_exec hfault)
  exact ⟨hmod, hinv, hrest⟩

/-! ### What a result depends on -/

/-- Two register files agree on the cells of a list. -/
def Regs.AgreeOn (cells : List Reg) (r r' : Regs) : Prop := ∀ c ∈ cells, r.get c = r'.get c

section AgreeOn
variable {r r' : Regs}

@[simp] theorem agreeOn_nil : Regs.AgreeOn [] r r' := nofun

@[simp] theorem agreeOn_cons {c : Reg} {l : List Reg} :
    Regs.AgreeOn (c :: l) r r' ↔ r.get c = r'.get c ∧ Regs.AgreeOn l r r' := by
  simp only [Regs.AgreeOn, List.mem_cons, forall_eq_or_imp]

@[simp] theorem agreeOn_append {l m : List Reg} :
    Regs.AgreeOn (l ++ m) r r' ↔ Regs.AgreeOn l r r' ∧ Regs.AgreeOn m r r' := by
  simp only [Regs.AgreeOn, List.mem_append, or_imp, forall_and]

/-- Agreement on the cells of a five-limb register is equality of the register. -/
@[simp] theorem agreeOn_limbCells {V : LimbReg} :
    Regs.AgreeOn (limbCells V) r r' ↔ r.limbs V = r'.limbs V := by
  constructor
  · refine fun h => limbs_ext_limb fun i => h (.limb V i) ?_
    fin_cases i <;> simp [limbCells]
  · intro h
    simp [limbCells, Regs.get, h]

/-- Agreement on the matrix cells is equality of the four registers. -/
@[simp] theorem agreeOn_matrixCells :
    Regs.AgreeOn matrixCells r r' ↔ r.tu = r'.tu ∧ r.tv = r'.tv ∧ r.tq = r'.tq ∧ r.tr = r'.tr := by
  simp [matrixCells, Regs.get]

/-- Free values depend on the number of the first draw only (R22, D36). -/
theorem agreeOn_unspecify {cells : List Reg} (hn : cells.Nodup) (first : Nat) (r r' : Regs) :
    Regs.AgreeOn cells (r.unspecify first cells) (r'.unspecify first cells) := by
  intro c hc
  obtain ⟨k, hk, rfl⟩ := List.mem_iff_getElem.1 hc
  rw [unspecifyRegs_get hn, unspecifyRegs_get hn]

end AgreeOn

/-- Two answers of a rule: they fail with the same code, or their register files are related. -/
inductive AnswersRelated (R : Regs → Regs → Prop) : Except FaultCode Regs → Except FaultCode Regs → Prop
  | ok {r r' : Regs} (h : R r r') : AnswersRelated R (.ok r) (.ok r')
  | error (code : FaultCode) : AnswersRelated R (.error code) (.error code)

section AnswersRelated
variable {R R' : Regs → Regs → Prop} {x x' y y' : Except FaultCode Regs}

theorem AnswersRelated.of_eq (hR : ∀ r, R r r) (h : x = x') : AnswersRelated R x x' := by
  subst h
  cases x with
  | ok r => exact .ok (hR r)
  | error code => exact .error code

theorem AnswersRelated.mono (h : AnswersRelated R x x') (hR : ∀ r r', R r r' → R' r r') : AnswersRelated R' x x' := by
  cases h with
  | ok h => exact .ok (hR _ _ h)
  | error code => exact .error code

theorem AnswersRelated.ite {p : Prop} [Decidable p] (hx : AnswersRelated R x x') (hy : AnswersRelated R y y') :
    AnswersRelated R (if p then x else y) (if p then x' else y') := by
  split
  · exact hx
  · exact hy

/-- What follows related answers in the same way gives the same answer. -/
theorem AnswersRelated.bind_eq {k k' : Regs → Except FaultCode Regs} (hx : AnswersRelated R x x')
    (hk : ∀ r r', R r r' → k r = k' r') : (x >>= k) = (x' >>= k') := by
  cases hx with
  | ok h => exact hk _ _ h
  | error code => rfl

end AnswersRelated

/-- The end of a command depends on STATUS, the number of draws made and the rule's answer (R65, R112, R114). -/
theorem conclude_agree (i : Instr) {s s' : State} {x x' : Except FaultCode Regs} (hstatus : s.status = s'.status)
    (hdraws : s.draws = s'.draws) (h : AnswersRelated (Regs.AgreeOn (writesOf i)) x x') :
    (s.conclude (writesOf i) x).status = (s'.conclude (writesOf i) x').status ∧
      (s.conclude (writesOf i) x).draws = (s'.conclude (writesOf i) x').draws ∧
      Regs.AgreeOn (writesOf i) (s.conclude (writesOf i) x).regs (s'.conclude (writesOf i) x').regs := by
  cases h with
  | ok h => exact ⟨congrArg statusDone hstatus, hdraws, h⟩
  | error code =>
    simp only [State.conclude, ← hstatus]
    split
    · refine ⟨congrArg (statusFault code) hstatus, congrArg (· + _) hdraws, fun c hc => ?_⟩
      rw [raiseFault_regs, raiseFault_regs, ← hdraws]
      exact agreeOn_unspecify faultedRegs_nodup _ _ _ c (writesOf_subset_faultedRegs i c hc)
    · refine ⟨congrArg statusDone hstatus, congrArg (· + _) hdraws, ?_⟩
      rw [finishUnspecified_regs, finishUnspecified_regs, ← hdraws]
      exact agreeOn_unspecify (writesOf_nodup i) _ _ _

section Rules
variable {r r' : Regs}

/-- The register files are the same but for the matrix. -/
def Regs.SameButMatrix (r r' : Regs) : Prop :=
  r' = { r with tu := r'.tu, tv := r'.tv, tq := r'.tq, tr := r'.tr }

/-- INIT reads X, MOD and MODINV62, and of the registers it does not read only the matrix is no destination. -/
theorem initRule_related (hx : r.x = r'.x) (hmod : r.mod = r'.mod) (hinv : r.modinv62 = r'.modinv62) :
    AnswersRelated Regs.SameButMatrix (initRule r) (initRule r') := by
  rw [initRule_eq, initRule_eq, hx, hmod, hinv]
  exact .ite (.ite (.ok rfl) (.error _)) (.error _)

/-- A divstep command replaces the matrix without reading it (R77). -/
theorem divstepsRule_of_sameButMatrix (h : Regs.SameButMatrix r r') : divstepsRule r = divstepsRule r' := by
  rw [h]
  rfl

theorem iterateRule_of_sameButMatrix (h : Regs.SameButMatrix r r') :
    iterateRule divstepsRule r = iterateRule divstepsRule r' := by
  rw [iterateRule, iterateRule, divstepsRule_of_sameButMatrix h]

theorem ctLoop_of_sameButMatrix (h : Regs.SameButMatrix r r') (n : Nat) : ctLoop (n + 1) r = ctLoop (n + 1) r' := by
  have hfirst : iterateRule divstepsCtRule r = iterateRule divstepsCtRule r' := iterateRule_of_sameButMatrix h
  simp only [ctLoop, iterations_succ, hfirst]

theorem vtLoop_of_sameButMatrix (h : Regs.SameButMatrix r r') (n : Nat) : vtLoop (n + 1) r = vtLoop (n + 1) r' := by
  have hfirst : iterateRule divstepsVtRule r = iterateRule divstepsVtRule r' := iterateRule_of_sameButMatrix h
  simp only [vtLoop, hfirst]

/-- A driver's answer depends on X, MOD and MODINV62: INIT gives the working copies but for the matrix, and the loop's
first iteration gives that (R98, R99). -/
theorem driver_eq_of_inputs (checks : Bool) {loop : Regs → Except FaultCode Regs}
    (hloop : ∀ a b, Regs.SameButMatrix a b → loop a = loop b) (hx : r.x = r'.x) (hmod : r.mod = r'.mod)
    (hinv : r.modinv62 = r'.modinv62) :
    (initRule r >>= fun r1 => loop r1 >>= driverEnd checks) =
      (initRule r' >>= fun r1 => loop r1 >>= driverEnd checks) :=
  (initRule_related hx hmod hinv).bind_eq fun a b hab => by rw [hloop a b hab]

theorem divstepsRule_related (heta : r.eta = r'.eta) (hf : r.f.v0 = r'.f.v0) (hg : r.g.v0 = r'.g.v0) :
    AnswersRelated (Regs.AgreeOn (.eta :: matrixCells)) (divstepsRule r) (divstepsRule r') := by
  rw [divstepsRule_eq, divstepsRule_eq, heta, hf, hg]
  exact .ite (.ite (.ok (by simp [Regs.setDivsteps, Regs.get])) (.error _)) (.error _)

theorem updateDeRule_related (hd : r.d = r'.d) (he : r.e = r'.e) (hT : r.matrix = r'.matrix)
    (hmod : r.mod = r'.mod) (hinv : r.modinv62 = r'.modinv62) :
    AnswersRelated (Regs.AgreeOn (writesOf .updateDe)) (updateDeRule r) (updateDeRule r') := by
  simp only [updateDeRule, updateDeWith_eq, hd, he, hT, hmod, hinv]
  exact .ite (.ite (.ite (.ite (.ite (.ok (by simp [writesOf, Regs.limbs])) (.error _)) (.error _)) (.error _))
    (.error _)) (.error _)

theorem updateFgRule_related (hf : r.f = r'.f) (hg : r.g = r'.g) (hT : r.matrix = r'.matrix) :
    AnswersRelated (Regs.AgreeOn (writesOf .updateFg)) (updateFgRule r) (updateFgRule r') := by
  simp only [updateFgRule_eq, hf, hg, hT]
  exact .ite (.ite (.ite (.ite (.ok (by simp [writesOf, Regs.limbs])) (.error _)) (.error _)) (.error _)) (.error _)

theorem normalizeRule_related (hd : r.d = r'.d) (hf : r.f.v4 = r'.f.v4) (hmod : r.mod = r'.mod)
    (hinv : r.modinv62 = r'.modinv62) :
    AnswersRelated (Regs.AgreeOn (writesOf .normalize)) (normalizeRule r) (normalizeRule r') := by
  simp only [normalizeRule_eq, hd, hf, hmod, hinv]
  exact .ite (.ite (.ok (by simp [writesOf, Regs.limbs])) (.error _)) (.error _)

/-- INIT and the drivers read the same cells (R61). -/
theorem inputs_of_agreeOn (h : Regs.AgreeOn (readsOf .init) r r') :
    r.x = r'.x ∧ r.mod = r'.mod ∧ r.modinv62 = r'.modinv62 := by
  simpa [readsOf, Regs.limbs, Regs.get, and_assoc] using h

theorem matrix_eq_of_agreeOn (h : Regs.AgreeOn matrixCells r r') : r.matrix = r'.matrix := by
  obtain ⟨hu, hv, hq, hr⟩ := agreeOn_matrixCells.1 h
  simp only [Regs.matrix, hu, hv, hq, hr]

/-- A command's answer depends on the registers it reads (R61). -/
theorem ruleOf_related (checks : Bool) {i : Instr} (h : Regs.AgreeOn (readsOf i) r r') :
    AnswersRelated (Regs.AgreeOn (writesOf i)) (ruleOf checks i r) (ruleOf checks i r') := by
  cases i with
  | init =>
    obtain ⟨hx, hmod, hinv⟩ := inputs_of_agreeOn h
    refine (initRule_related hx hmod hinv).mono fun a b hab => ?_
    rw [hab]
    simp [writesOf, Regs.limbs, Regs.get]
  | divstepsCt | divstepsVt =>
    simp only [readsOf, agreeOn_cons, agreeOn_nil, and_true] at h
    obtain ⟨heta, hf, hg⟩ := h
    exact divstepsRule_related heta hf hg
  | updateDe =>
    simp only [readsOf, agreeOn_append, agreeOn_limbCells, agreeOn_cons, agreeOn_nil, and_true] at h
    obtain ⟨⟨⟨⟨hd, he⟩, hT⟩, hmod⟩, hinv⟩ := h
    exact updateDeRule_related hd he (matrix_eq_of_agreeOn hT) hmod hinv
  | updateFg =>
    simp only [readsOf, agreeOn_append, agreeOn_limbCells] at h
    obtain ⟨⟨hf, hg⟩, hT⟩ := h
    exact updateFgRule_related hf hg (matrix_eq_of_agreeOn hT)
  | normalize =>
    simp only [readsOf, agreeOn_append, agreeOn_limbCells, agreeOn_cons, agreeOn_nil, and_true] at h
    obtain ⟨⟨⟨hd, hf⟩, hmod⟩, hinv⟩ := h
    exact normalizeRule_related hd hf hmod hinv
  | modinv =>
    obtain ⟨hx, hmod, hinv⟩ := inputs_of_agreeOn h
    exact .of_eq (fun _ _ _ => rfl)
      (driver_eq_of_inputs checks (fun _ _ hab => ctLoop_of_sameButMatrix hab 11) hx hmod hinv)
  | modinvVar =>
    obtain ⟨hx, hmod, hinv⟩ := inputs_of_agreeOn h
    exact .of_eq (fun _ _ _ => rfl)
      (driver_eq_of_inputs checks (fun _ _ hab => vtLoop_of_sameButMatrix hab 11) hx hmod hinv)

end Rules

/-- Settles O31: the rule's answer depends on the reads, and the command's end on that answer, STATUS and the draws. -/
theorem resultDependsOnlyOnReads : Obligations.ResultDependsOnlyOnReads := by
  intro i s s' t t' hstatus hdraws hreads h h'
  rw [exec_eq_conclude] at h h'
  cases h
  cases h'
  rw [← hstatus]
  exact conclude_agree i hstatus hdraws (ruleOf_related s.status.checks hreads)

end Sys2Proof.Machine
end

section
/-! SUPPORT. The lines of a host script (30_encoding.md R68, R69) as accesses of the window, and what they do. -/

namespace Sys2Proof.Machine

variable {s : State} {rest : List Event}

/-- `wr REG, imm` is a write at the register's offset (R68). -/
theorem wr_eq (R : ScriptReg) (v : Word) : wr R v = [.write (scriptOffset R) 8 v] := by simp [wr, memWrite]

/-- `rd REG` is a read at the register's offset (R68). -/
theorem rd_eq (R : ScriptReg) : rd R = [.read (scriptOffset R) 8] := by simp [rd, memRead]

/-- A negative number is stored as two's complement (R10, R68). -/
theorem imm_toNat (n : Int) : ((imm n).toNat : Int) = n % 2 ^ 64 := by
  have hpos : 0 ≤ n % 2 ^ 64 := Int.emod_nonneg n (by norm_num)
  simpa [imm, BitVec.toNat_ofInt] using hpos

/-- The offsets below 0x200 are those of the addresses of the window (R40, R44; log 9). -/
theorem busOffset_lt_iff (addr : Nat) :
    busOffset addr < 0x200 ↔ Config.engineBase ≤ addr ∧ addr < Config.engineBase + 0x200 := by
  simp only [busOffset, windowBytes]
  split <;> omega

/-- An access of a host address outside the window is refused (R44; log 9). -/
theorem step_outside_refused {addr : Nat}
    (hout : ¬(Config.engineBase ≤ addr ∧ addr < Config.engineBase + 0x200)) {v : Word}
    (hscript : s.script = memWrite addr 8 v :: rest ∨ s.script = memRead addr 8 :: rest) :
    ∃ why, step s = .refused why := by
  cases hr : accessRefusal (busOffset addr) 8 with
  | none =>
    obtain ⟨-, -, hin⟩ := accessWf_iff.1 ((accessRefusal_eq_none _ _).1 hr)
    exact absurd ((busOffset_lt_iff addr).1 hin) hout
  | some why => exact ⟨why, step_refused hscript.symm hr⟩

/-- Settles O59. -/
theorem scriptLinesAreAccesses : Obligations.ScriptLinesAreAccesses :=
  ⟨fun c => wr_eq (.cell c), fun c => rd_eq (.cell c), wr_eq .status, rd_eq .status, wr_eq .cmd, rd_eq .cmd,
    imm_toNat, fun i => wr_eq .cmd (encode i), rfl, fun _ hout _ _ _ => step_outside_refused hout⟩

/-- A run of a ready engine takes a line `wr` of a register cell first, and stores (R47, R68). -/
theorem run_wr {r : Regs} {st : Status} (hbusy : st.busy = false) (hfault : st.fault = false) {c : Reg}
    (hc : c ≠ .iter) (v : Word) (rest : List Event) (n : Nat) (read : List Word) (k : Nat) :
    core.run (k + 1) ⟨r, st, n, wr (.cell c) v ++ rest, read⟩ = core.run k ⟨r.set c v, st, n, rest, read⟩ := by
  rw [wr_eq]
  exact run_succ_of_step (step_write rfl (accessWf_regOffset c)
    (hostWrite_of_ready ⟨hbusy, hfault⟩ (slotAt_regOffset c) hc)) k

/-- Writing a limb of a register just replaced replaces the limb of the replacement. -/
theorem setLimbs_set_limb (r : Regs) (V : LimbReg) (l : Limbs) (i : Fin 5) (w : Word) :
    (r.setLimbs V l).set (.limb V i) w = r.setLimbs V (l.setLimb i w) := by
  cases V <;> rfl

/-- Writing the five limbs of a register replaces the register. -/
theorem set_limbs (r : Regs) (V : LimbReg) (l : Limbs) :
    ((((r.set (.limb V 0) l.v0).set (.limb V 1) l.v1).set (.limb V 2) l.v2).set (.limb V 3) l.v3).set (.limb V 4) l.v4 =
      r.setLimbs V l := by
  have hfirst : r.set (.limb V 0) l.v0 = r.setLimbs V ((r.limbs V).setLimb 0 l.v0) := rfl
  simp only [hfirst, setLimbs_set_limb]
  rfl

/-- Settles O60: five lines `wr`, one limb each. -/
theorem wr62LoadsTheCanonicalLimbs : Obligations.Wr62LoadsTheCanonicalLimbs := by
  rintro ⟨r, st, n, script, read⟩ V m rest ⟨hbusy, hfault⟩ hscript
  obtain rfl : script = wr62 V m ++ rest := hscript
  have hlimb (i : Fin 5) : Reg.limb V i ≠ .iter := nofun
  simp only [wr62, List.append_assoc, run_wr hbusy hfault (hlimb _), set_limbs]
  rfl

end Sys2Proof.Machine
end

section
/-! SUPPORT. NORMALIZE (40_limbrepr.md R71 to R74): its five steps on exact integers, the room they leave for carries,
and the residue they compute. -/

namespace Sys2Proof.Machine

/-! ### The signed 64-bit range -/

/-- An integer in the signed 64-bit range. -/
abbrev FitsWord (n : Int) : Prop := -2 ^ 63 ≤ n ∧ n < 2 ^ 63

/-- An integer that stays in the signed 64-bit range when the carry of another such integer is added to it. -/
abbrev HasCarryRoom (n : Int) : Prop := -2 ^ 63 + 2 ≤ n ∧ n ≤ 2 ^ 63 - 2

/-- Every limb is in the signed 64-bit range (R73). -/
abbrev IntLimbs.Fit (r : IntLimbs) : Prop :=
  FitsWord r.v0 ∧ FitsWord r.v1 ∧ FitsWord r.v2 ∧ FitsWord r.v3 ∧ FitsWord r.v4

/-- Every limb has room for a carry. -/
abbrev IntLimbs.Roomy (r : IntLimbs) : Prop :=
  HasCarryRoom r.v0 ∧ HasCarryRoom r.v1 ∧ HasCarryRoom r.v2 ∧ HasCarryRoom r.v3 ∧ HasCarryRoom r.v4

theorem HasCarryRoom.fits {n : Int} (h : HasCarryRoom n) : FitsWord n := by
  simp only [HasCarryRoom, FitsWord] at *
  omega

theorem LimbDigit.fits {n : Int} (h : LimbDigit n) : FitsWord n := by
  simp only [LimbDigit, FitsWord, radix] at *
  omega

/-- The carry out of a word is between −2 and 1. -/
theorem HasCarryRoom.add_carry {a b : Int} (hb : HasCarryRoom b) (ha : FitsWord a) : FitsWord (b + sar62 a) := by
  simp only [HasCarryRoom, FitsWord, sar62, radix] at *
  omega

/-- A sum of two limbs in (−2^62, 2^62) has room for a carry. -/
theorem LimbBounded.add_andMask {a b : Int} (ha : LimbBounded a) (hb : LimbBounded b) (c : Int) :
    HasCarryRoom (a + andMask b c) := by
  simp only [LimbBounded, HasCarryRoom, andMask, radix] at *
  split <;> omega

theorem HasCarryRoom.negMask {n : Int} (h : HasCarryRoom n) (c : Int) : HasCarryRoom (negMask n c) := by
  simp only [HasCarryRoom, Machine.negMask] at *
  split <;> omega

section Roomy
variable {r : IntLimbs}

theorem IntLimbs.Roomy.fit (h : r.Roomy) : r.Fit := by
  obtain ⟨h0, h1, h2, h3, h4⟩ := h
  exact ⟨h0.fits, h1.fits, h2.fits, h3.fits, h4.fits⟩

theorem IntLimbs.Roomy.negMasked (h : r.Roomy) (c : Int) : (negMasked r c).Roomy := by
  obtain ⟨h0, h1, h2, h3, h4⟩ := h
  exact ⟨h0.negMask c, h1.negMask c, h2.negMask c, h3.negMask c, h4.negMask c⟩

/-- No partial sum of the carries leaves the signed 64-bit range (R73, steps 3 and 5). -/
theorem IntLimbs.Roomy.carries_fit (h : r.Roomy) :
    FitsWord (r.v1 + sar62 r.v0) ∧ FitsWord (r.v2 + sar62 (r.v1 + sar62 r.v0)) ∧
      FitsWord (r.v3 + sar62 (r.v2 + sar62 (r.v1 + sar62 r.v0))) := by
  obtain ⟨h0, h1, h2, h3, -⟩ := h
  have s1 := h1.add_carry h0.fits
  have s2 := h2.add_carry s1
  exact ⟨s1, s2, h3.add_carry s2⟩

/-- Carry propagation leaves digits, and in the top limb the last partial sum. -/
theorem IntLimbs.Roomy.propagate_fit (h : r.Roomy) : (propagate r).Fit := by
  obtain ⟨h0, h1, h2, h3⟩ := propagate_digits r
  obtain ⟨-, -, s3⟩ := h.carries_fit
  obtain ⟨-, -, -, -, h4⟩ := h
  exact ⟨h0.fits, h1.fits, h2.fits, h3.fits, h4.add_carry s3⟩

/-- A register takes the limbs of a carry propagation unchanged. -/
theorem IntLimbs.Roomy.words_ints (h : r.Roomy) : (propagate r).words.ints = propagate r := by
  obtain ⟨h0, h1, h2, h3, h4⟩ := h.propagate_fit
  exact Machine.words_ints h0 h1 h2 h3 h4

theorem IntLimbs.Roomy.canonical_words (h : r.Roomy) : Canonical (propagate r).words := by
  have hdigits := propagate_digits r
  rwa [← h.words_ints] at hdigits

theorem IntLimbs.Roomy.value_words (h : r.Roomy) : value (propagate r).words = r.total := by
  rw [value, h.words_ints, propagate_total]

end Roomy

/-- The top limb of a canonical vector of at most 256 bits is in [−256, 256). -/
theorem Canonical.limbsBounded {V : Limbs} (hV : Canonical V) (hlo : -modulusBound < value V)
    (hhi : value V < modulusBound) : LimbsBounded V := by
  have hb := hV.value_bounds
  obtain ⟨h0, h1, h2, h3⟩ := hV
  have bounded {d : Int} (hd : LimbDigit d) : LimbBounded d := by
    simp only [LimbDigit, LimbBounded, radix] at *
    omega
  have htop : LimbBounded V.v4.toInt := by
    simp only [LimbBounded, radix, modulusBound] at *
    omega
  exact ⟨bounded h0, bounded h1, bounded h2, bounded h3, htop⟩

/-! ### The conditional addition and the conditional negation -/

/-- Steps 1 and 4 of R71: the modulus is added when the top limb is negative. -/
def addIfNegative (r m : IntLimbs) : IntLimbs := addMasked r m (signMask r.v4)

/-- Steps 1 and 2 of R71. -/
def signFolded (r : IntLimbs) (sign : Int) (m : IntLimbs) : IntLimbs :=
  negMasked (addIfNegative r m) (signMask sign)

theorem normalize62_eq (r : IntLimbs) (sign : Int) (m : IntLimbs) :
    normalize62 r sign m = propagate (addIfNegative (propagate (signFolded r sign m)) m) := rfl

theorem andMask_signMask (a b : Int) : andMask b (signMask a) = if a < 0 then b else 0 := by
  unfold andMask signMask
  split_ifs <;> simp_all

theorem negMask_signMask (a b : Int) : negMask b (signMask a) = if a < 0 then -b else b := by
  unfold negMask signMask
  split_ifs <;> simp_all

theorem addIfNegative_total (r m : IntLimbs) :
    (addIfNegative r m).total = r.total + if r.v4 < 0 then m.total else 0 := by
  rw [addIfNegative, addMasked_total, andMask_signMask]

theorem signFolded_total (r : IntLimbs) (sign : Int) (m : IntLimbs) :
    (signFolded r sign m).total =
      if sign < 0 then -(addIfNegative r m).total else (addIfNegative r m).total := by
  rw [signFolded, negMasked_total, negMask_signMask]

/-- The conditional addition keeps the residue. -/
theorem addIfNegative_modEq (r m : IntLimbs) : (addIfNegative r m).total ≡ r.total [ZMOD m.total] := by
  rw [addIfNegative_total]
  split
  · exact Int.add_modEq_right
  · rw [add_zero]

/-- Steps 1 and 2 fold the sign into the residue. -/
theorem signFolded_modEq (r : IntLimbs) (sign : Int) (m : IntLimbs) :
    (signFolded r sign m).total ≡ (if sign < 0 then -r.total else r.total) [ZMOD m.total] := by
  rw [signFolded_total]
  split
  · exact (addIfNegative_modEq r m).neg
  · exact addIfNegative_modEq r m

theorem LimbsBounded.addIfNegative_roomy {V m : Limbs} (hV : LimbsBounded V) (hm : LimbsBounded m) :
    (addIfNegative V.ints m.ints).Roomy := by
  obtain ⟨h0, h1, h2, h3, h4⟩ := hV
  obtain ⟨m0, m1, m2, m3, m4⟩ := hm
  exact ⟨h0.add_andMask m0 _, h1.add_andMask m1 _, h2.add_andMask m2 _, h3.add_andMask m3 _, h4.add_andMask m4 _⟩

/-- On a sign-consistent register the conditional addition looks at the sign of the value. -/
theorem SignConsistent.addIfNegative_total {V : Limbs} (hV : SignConsistent V) (m : Limbs) :
    (addIfNegative V.ints m.ints).total = value V + if value V < 0 then value m else 0 := by
  rw [Machine.addIfNegative_total]
  simp only [hV]
  rfl

/-! ### The command -/

/-- The register that steps 1 to 3 of R71 leave. -/
def signCarried (d : Limbs) (sign : Int) (m : Limbs) : Limbs := (propagate (signFolded d.ints sign m.ints)).words

theorem ModinfoValid.limbsBounded {m : Limbs} {inv : Word} (h : ModinfoValid m inv) : LimbsBounded m := by
  obtain ⟨⟨hcanon, -⟩, hpos, hlt, -⟩ := h
  exact hcanon.limbsBounded (by simp only [modulusBound]; omega) hlt

section Checked
variable {d m : Limbs} {inv : Word} (hm : ModinfoValid m inv) (hd : ResidueOk d m) (sign : Int)
include hm hd

/-- Step 1 leaves room for carries. -/
theorem addIfNegative_roomy : (addIfNegative d.ints m.ints).Roomy := by
  obtain ⟨hbounded, -⟩ := hd
  exact hbounded.addIfNegative_roomy hm.limbsBounded

/-- Step 2 leaves room for carries. -/
theorem signFolded_roomy : (signFolded d.ints sign m.ints).Roomy := (addIfNegative_roomy hm hd).negMasked _

/-- Steps 1 and 2 bring the value into (−M, M) (R74). -/
theorem signFolded_range :
    -value m < (signFolded d.ints sign m.ints).total ∧ (signFolded d.ints sign m.ints).total < value m := by
  obtain ⟨-, hpos, -⟩ := hm
  obtain ⟨-, hlo, hhi, hsign⟩ := hd
  rw [signFolded_total, hsign.addIfNegative_total m]
  split_ifs <;> omega

theorem signCarried_ints : (signCarried d sign m).ints = propagate (signFolded d.ints sign m.ints) :=
  (signFolded_roomy hm hd sign).words_ints

theorem signCarried_canonical : Canonical (signCarried d sign m) := (signFolded_roomy hm hd sign).canonical_words

theorem signCarried_value : value (signCarried d sign m) = (signFolded d.ints sign m.ints).total :=
  (signFolded_roomy hm hd sign).value_words

/-- Step 4 leaves room for carries: after step 3 every limb is bounded, the top one because the value is. -/
theorem addIfNegative_signCarried_roomy : (addIfNegative (signCarried d sign m).ints m.ints).Roomy := by
  have hcanon := signCarried_canonical hm hd sign
  have hrange := signFolded_range hm hd sign
  rw [← signCarried_value hm hd sign] at hrange
  refine LimbsBounded.addIfNegative_roomy ?_ hm.limbsBounded
  obtain ⟨-, -, hlt, -⟩ := hm
  exact hcanon.limbsBounded (by omega) (by omega)

/-- Step 4 brings the value into [0, M) (R74). -/
theorem addIfNegative_signCarried_range :
    0 ≤ (addIfNegative (signCarried d sign m).ints m.ints).total ∧
      (addIfNegative (signCarried d sign m).ints m.ints).total < value m := by
  have hrange := signFolded_range hm hd sign
  rw [(signCarried_canonical hm hd sign).signConsistent.addIfNegative_total, signCarried_value hm hd sign]
  split <;> omega

/-- Step 4 keeps the residue of the sign times the value of D (R74). -/
theorem addIfNegative_signCarried_total :
    (addIfNegative (signCarried d sign m).ints m.ints).total =
      (if sign < 0 then -value d else value d) % value m := by
  obtain ⟨hlo, hhi⟩ := addIfNegative_signCarried_range hm hd sign
  rw [← Int.emod_eq_of_lt hlo hhi]
  calc (addIfNegative (signCarried d sign m).ints m.ints).total
      ≡ value (signCarried d sign m) [ZMOD value m] := addIfNegative_modEq _ _
    _ ≡ (signFolded d.ints sign m.ints).total [ZMOD value m] := by rw [signCarried_value hm hd sign]
    _ ≡ (if sign < 0 then -value d else value d) [ZMOD value m] := signFolded_modEq _ _ _

theorem normalize62_of_checks :
    normalize62 d.ints sign m.ints = propagate (addIfNegative (signCarried d sign m).ints m.ints) := by
  rw [normalize62_eq, signCarried_ints hm hd]

end Checked

/-- Settles O41: steps 1 and 4 change the value by multiples of M only, step 5 stores a canonical vector of a value
in [0, M), and such a vector has no negative top limb. -/
theorem normalizeResult : Obligations.NormalizeResult := by
  intro s hm hd
  have hrule : ruleOf s.status.checks .normalize s.regs = .ok
      { s.regs with d := (normalize62 s.regs.d.ints s.regs.f.v4.toInt s.regs.mod.ints).words } := by
    rw [ruleOf, normalizeRule_eq, if_pos hm, if_pos hd]
  have hroomy := addIfNegative_signCarried_roomy hm hd s.regs.f.v4.toInt
  have hcanon := hroomy.canonical_words
  have hvalue := hroomy.value_words
  rw [← normalize62_of_checks hm hd] at hcanon hvalue
  obtain ⟨hlo, hhi⟩ := addIfNegative_signCarried_range hm hd s.regs.f.v4.toInt
  rw [← hvalue] at hlo hhi
  have htop := not_lt.1 (hcanon.signConsistent.not.1 (not_lt.2 hlo))
  exact ⟨_, exec_of_rule_ok hrule, rfl, hvalue.trans (addIfNegative_signCarried_total hm hd _),
    ⟨hcanon, htop⟩, hlo, hhi⟩

/-- Settles O43: steps 1, 2 and 4 leave room for a carry in every limb. -/
theorem normalizeStaysInSixtyFourBits : Obligations.NormalizeStaysInSixtyFourBits := by
  intro D M inv sign hm hd
  have h1 := addIfNegative_roomy hm hd
  have h2 := signFolded_roomy hm hd sign.toInt
  have h4 := addIfNegative_signCarried_roomy hm hd sign.toInt
  rw [signCarried_ints hm hd] at h4
  exact ⟨h1.fit, h2.fit, h2.carries_fit, h2.propagate_fit, h4.fit, h4.carries_fit, h4.propagate_fit,
    normalize62_eq _ _ _⟩

/-- Settles O42: the rule's checks stand in the order of R71. -/
theorem normalizeChecks : Obligations.NormalizeChecks := by
  refine fun s => ⟨fun hm => exec_of_rule_error ?_, fun hm hd => exec_of_rule_error ?_⟩
  · rw [ruleOf, normalizeRule_eq, if_neg hm]
  · rw [ruleOf, normalizeRule_eq, if_pos hm, if_neg hd]

end Sys2Proof.Machine
end

section
/-! SUPPORT. The divstep and its matrix (41_divsteps.md R76 to R78): the three cases, the oddness of F, how far η, F, G
and the matrix can move in n divsteps, and which bits of F and G they depend on. -/

namespace Sys2Proof.Machine

/-! ### One divstep -/

section DivstepCases
variable {t : DivTriple}

theorem divstep_of_swap (heta : t.eta < 0) (hg : t.g % 2 = 1) :
    divstep t = ⟨-t.eta - 1, t.g, (t.g - t.f) / 2⟩ := if_pos ⟨heta, hg⟩

theorem divstep_of_add (heta : 0 ≤ t.eta) (hg : t.g % 2 = 1) :
    divstep t = ⟨t.eta - 1, t.f, (t.g + t.f) / 2⟩ := by
  rw [divstep, if_neg fun h => heta.not_gt h.1, if_pos hg]

theorem divstep_of_even (hg : t.g % 2 = 0) : divstep t = ⟨t.eta - 1, t.f, t.g / 2⟩ := by
  simp [divstep, hg]

theorem stepMatrix_of_swap (heta : t.eta < 0) (hg : t.g % 2 = 1) (T : IntMatrix) :
    stepMatrix t T = ⟨2 * T.q, 2 * T.r, T.q - T.u, T.r - T.v⟩ := if_pos ⟨heta, hg⟩

theorem stepMatrix_of_add (heta : 0 ≤ t.eta) (hg : t.g % 2 = 1) (T : IntMatrix) :
    stepMatrix t T = ⟨2 * T.u, 2 * T.v, T.q + T.u, T.r + T.v⟩ := by
  rw [stepMatrix, if_neg fun h => heta.not_gt h.1, if_pos hg]

theorem stepMatrix_of_even (hg : t.g % 2 = 0) (T : IntMatrix) :
    stepMatrix t T = ⟨2 * T.u, 2 * T.v, T.q, T.r⟩ := by
  simp [stepMatrix, hg]

/-- The case split of R76. -/
theorem DivTriple.cases (t : DivTriple) :
    (t.eta < 0 ∧ t.g % 2 = 1) ∨ (0 ≤ t.eta ∧ t.g % 2 = 1) ∨ t.g % 2 = 0 := by omega

/-- F stays odd (R76). -/
theorem divstep_f_odd (hf : t.f % 2 = 1) : (divstep t).f % 2 = 1 := by
  obtain ⟨heta, hg⟩ | ⟨heta, hg⟩ | hg := t.cases
  · rwa [divstep_of_swap heta hg]
  · rwa [divstep_of_add heta hg]
  · rwa [divstep_of_even hg]

/-- η moves away from 0 by at most 1 (R78 item 5). -/
theorem divstep_eta_natAbs_le (t : DivTriple) : (divstep t).eta.natAbs ≤ t.eta.natAbs + 1 := by
  obtain ⟨heta, hg⟩ | ⟨heta, hg⟩ | hg := t.cases
  · rw [divstep_of_swap heta hg]
    dsimp only
    omega
  · rw [divstep_of_add heta hg]
    dsimp only
    omega
  · rw [divstep_of_even hg]
    dsimp only
    omega

end DivstepCases

/-- Settles O36. -/
theorem divstepCases : Obligations.DivstepCases := by
  refine fun t hf => ⟨fun heta hg => ?swap, fun heta hg => ?add, fun hg => ?even, divstep_f_odd hf⟩
  case swap =>
    rw [divstep_of_swap heta hg]
    exact ⟨rfl, rfl, by dsimp only; omega⟩
  case add =>
    rw [divstep_of_add heta hg]
    exact ⟨rfl, rfl, by dsimp only; omega⟩
  case even =>
    rw [divstep_of_even hg]
    exact ⟨rfl, rfl, by dsimp only; omega⟩

/-! ### Runs of divsteps -/

@[simp] theorem wordTriple_eta (eta f0 g0 : Word) : (wordTriple eta f0 g0).eta = eta.toInt := rfl
@[simp] theorem wordTriple_f (eta f0 g0 : Word) : (wordTriple eta f0 g0).f = f0.toNat := rfl
@[simp] theorem wordTriple_g (eta f0 g0 : Word) : (wordTriple eta f0 g0).g = g0.toNat := rfl


/-- The matrices of two runs, one after the other, compose. -/
theorem divstepMatrix_add (m n : Nat) (t : DivTriple) (T : IntMatrix) :
    divstepMatrix (m + n) t T = divstepMatrix n (divsteps m t) (divstepMatrix m t T) := by
  induction m generalizing t T with
  | zero => simp [divsteps, divstepMatrix]
  | succ m ih =>
    rw [Nat.add_right_comm]
    exact ih (divstep t) (stepMatrix t T)

theorem divsteps_f_odd (n : Nat) {t : DivTriple} (hf : t.f % 2 = 1) : (divsteps n t).f % 2 = 1 := by
  induction n generalizing t with
  | zero => exact hf
  | succ n ih => exact ih (divstep_f_odd hf)

theorem divsteps_eta_natAbs_le (n : Nat) (t : DivTriple) :
    (divsteps n t).eta.natAbs ≤ t.eta.natAbs + n := by
  induction n generalizing t with
  | zero => exact le_refl _
  | succ n ih =>
    have h1 := divstep_eta_natAbs_le t
    have hn := ih (divstep t)
    rw [divsteps]
    omega

/-- Each S_k has determinant 2 (R78 item 1). -/
theorem stepMatrix_det (t : DivTriple) (T : IntMatrix) : (stepMatrix t T).det = 2 * T.det := by
  obtain ⟨heta, hg⟩ | ⟨heta, hg⟩ | hg := t.cases
  · rw [stepMatrix_of_swap heta hg]
    simp only [IntMatrix.det]
    ring
  · rw [stepMatrix_of_add heta hg]
    simp only [IntMatrix.det]
    ring
  · rw [stepMatrix_of_even hg]
    simp only [IntMatrix.det]
    ring

theorem divstepMatrix_det (n : Nat) (t : DivTriple) (T : IntMatrix) :
    (divstepMatrix n t T).det = 2 ^ n * T.det := by
  induction n generalizing t T with
  | zero => simp [divstepMatrix]
  | succ n ih =>
    rw [divstepMatrix, ih, stepMatrix_det]
    ring

/-- |u| + |v| and |q| + |r| are at most B. -/
abbrev IntMatrix.RowsAtMost (T : IntMatrix) (B : Nat) : Prop :=
  T.u.natAbs + T.v.natAbs ≤ B ∧ T.q.natAbs + T.r.natAbs ≤ B

/-- Each S_k at most doubles the row sums (R78 item 2). -/
theorem IntMatrix.RowsAtMost.stepMatrix {T : IntMatrix} {B : Nat} (h : T.RowsAtMost B) (t : DivTriple) :
    (stepMatrix t T).RowsAtMost (2 * B) := by
  obtain ⟨huv, hqr⟩ := h
  obtain ⟨heta, hg⟩ | ⟨heta, hg⟩ | hg := t.cases
  · rw [stepMatrix_of_swap heta hg]
    constructor <;> dsimp only <;> omega
  · rw [stepMatrix_of_add heta hg]
    constructor <;> dsimp only <;> omega
  · rw [stepMatrix_of_even hg]
    constructor <;> dsimp only <;> omega

theorem IntMatrix.RowsAtMost.divstepMatrix {T : IntMatrix} {B : Nat} (h : T.RowsAtMost B) (n : Nat)
    (t : DivTriple) : (divstepMatrix n t T).RowsAtMost (2 ^ n * B) := by
  induction n generalizing t T B with
  | zero => simpa [Machine.divstepMatrix] using h
  | succ n ih =>
    rw [pow_succ, mul_assoc]
    exact ih (h.stepMatrix t) (divstep t)

/-- The row sums of T₆₂ (R78 item 2). -/
theorem divsteps62_rowsAtMost (eta f0 g0 : Word) : (divsteps62 eta f0 g0).2.RowsAtMost (2 ^ 62) := by
  have hone : IntMatrix.one.RowsAtMost 1 := by decide
  exact hone.divstepMatrix 62 (wordTriple eta f0 g0)

theorem divsteps62_fst (eta f0 g0 : Word) :
    (divsteps62 eta f0 g0).1 = (divsteps stepsPerMatrix (wordTriple eta f0 g0)).eta := by
  simp only [divsteps62]

/-- How far η₆₂ is from η (R78 item 5). -/
theorem divsteps62_eta_natAbs_le (eta f0 g0 : Word) :
    (divsteps62 eta f0 g0).1.natAbs ≤ eta.toInt.natAbs + 62 := by
  rw [divsteps62_fst]
  exact divsteps_eta_natAbs_le stepsPerMatrix (wordTriple eta f0 g0)

/-! ### The low bits decide -/

/-- The same η, and the same low n bits of F and of G. -/
structure DivTriple.AgreeBits (n : Nat) (t t' : DivTriple) : Prop where
  eta : t.eta = t'.eta
  f : t.f ≡ t'.f [ZMOD 2 ^ n]
  g : t.g ≡ t'.g [ZMOD 2 ^ n]

/-- Halving loses one known bit. -/
theorem half_modEq {n : Nat} {a b : Int} (h : a ≡ b [ZMOD 2 ^ (n + 1)]) : a / 2 ≡ b / 2 [ZMOD 2 ^ n] := by
  obtain ⟨c, hc⟩ := h.dvd
  have hb : b = a + 2 * (2 ^ n * c) := by rw [← sub_eq_iff_eq_add', hc]; ring
  rw [hb, Int.add_mul_ediv_left _ _ two_ne_zero]
  simp [Int.ModEq]

/-- Agreement in at least one bit is agreement in parity. -/
theorem parity_of_modEq {n : Nat} {a b : Int} (h : a ≡ b [ZMOD 2 ^ (n + 1)]) : a % 2 = b % 2 :=
  Int.ModEq.of_mul_left (2 ^ n) (pow_succ (2 : Int) n ▸ h)

section AgreeBits
variable {n : Nat} {t t' : DivTriple}

theorem DivTriple.AgreeBits.stepMatrix_eq (h : DivTriple.AgreeBits (n + 1) t t') (T : IntMatrix) :
    stepMatrix t T = stepMatrix t' T := by
  simp only [stepMatrix, h.eta, parity_of_modEq h.g]

/-- Both take the same case, and one bit less is known afterwards (R78 item 3). -/
theorem DivTriple.AgreeBits.divstep (h : DivTriple.AgreeBits (n + 1) t t') :
    DivTriple.AgreeBits n (divstep t) (divstep t') := by
  have hpar := parity_of_modEq h.g
  have hless : (2 : Int) ^ n ∣ 2 ^ (n + 1) := pow_dvd_pow 2 n.le_succ
  obtain ⟨heta, hg⟩ | ⟨heta, hg⟩ | hg := t.cases
  · rw [divstep_of_swap heta hg, divstep_of_swap (h.eta ▸ heta) (hpar ▸ hg)]
    exact ⟨by rw [h.eta], h.g.of_dvd hless, half_modEq (h.g.sub h.f)⟩
  · rw [divstep_of_add heta hg, divstep_of_add (h.eta ▸ heta) (hpar ▸ hg)]
    exact ⟨by rw [h.eta], h.f.of_dvd hless, half_modEq (h.g.add h.f)⟩
  · rw [divstep_of_even hg, divstep_of_even (hpar ▸ hg)]
    exact ⟨by rw [h.eta], h.f.of_dvd hless, half_modEq h.g⟩

/-- n divsteps read n bits (R78 item 3). -/
theorem DivTriple.AgreeBits.run_eq (h : DivTriple.AgreeBits n t t') (T : IntMatrix) :
    (divsteps n t).eta = (divsteps n t').eta ∧ divstepMatrix n t T = divstepMatrix n t' T := by
  induction n generalizing t t' T with
  | zero => exact ⟨h.eta, rfl⟩
  | succ n ih =>
    rw [divstepMatrix, divstepMatrix, h.stepMatrix_eq T]
    exact ih h.divstep (stepMatrix t' T)

end AgreeBits

/-! ### The matrix carries F and G -/

/-- T applied to (F, G) is c times (t.f, t.g): the source's "u·f0 + v·g0 = f · 2^i" and "q·f0 + r·g0 = g · 2^i"
(R77). -/
structure IntMatrix.Carries (T : IntMatrix) (F G c : Int) (t : DivTriple) : Prop where
  f : c * t.f = T.u * F + T.v * G
  g : c * t.g = T.q * F + T.r * G

section Carries
variable {T : IntMatrix} {F G c : Int} {t : DivTriple}

/-- The division of a divstep is exact, so S_k carries the triple on (R77). -/
theorem IntMatrix.Carries.divstep (h : T.Carries F G c t) (hf : t.f % 2 = 1) :
    (stepMatrix t T).Carries F G (2 * c) (divstep t) := by
  obtain ⟨hF, hG⟩ := h
  obtain ⟨heta, hg⟩ | ⟨heta, hg⟩ | hg := t.cases
  · have hhalf : 2 * ((t.g - t.f) / 2) = t.g - t.f := by omega
    rw [divstep_of_swap heta hg, stepMatrix_of_swap heta hg]
    exact ⟨by linear_combination 2 * hG, by linear_combination hG - hF + c * hhalf⟩
  · have hhalf : 2 * ((t.g + t.f) / 2) = t.g + t.f := by omega
    rw [divstep_of_add heta hg, stepMatrix_of_add heta hg]
    exact ⟨by linear_combination 2 * hF, by linear_combination hG + hF + c * hhalf⟩
  · have hhalf : 2 * (t.g / 2) = t.g := by omega
    rw [divstep_of_even hg, stepMatrix_of_even hg]
    exact ⟨by linear_combination 2 * hF, by linear_combination hG + c * hhalf⟩

theorem IntMatrix.Carries.divsteps (h : T.Carries F G c t) (hf : t.f % 2 = 1) (n : Nat) :
    (divstepMatrix n t T).Carries F G (2 ^ n * c) (divsteps n t) := by
  induction n generalizing t T c with
  | zero => simpa [divstepMatrix, Machine.divsteps] using h
  | succ n ih =>
    rw [pow_succ, mul_assoc]
    exact ih (h.divstep hf) (divstep_f_odd hf)

end Carries

/-- R78 item 4, for any number of divsteps. -/
theorem divstepMatrix_one_carries (n : Nat) {t : DivTriple} (hf : t.f % 2 = 1) :
    (divstepMatrix n t IntMatrix.one).Carries t.f t.g (2 ^ n) (divsteps n t) := by
  have hone : IntMatrix.one.Carries t.f t.g 1 t := ⟨by simp [IntMatrix.one], by simp [IntMatrix.one]⟩
  simpa using hone.divsteps hf n

/-- Any triple with the η of `wordTriple` and its low 62 bits runs as `divsteps62` says (R78 items 3 and 4). -/
theorem divsteps62_of_agreeBits {eta f0 g0 : Word} {t : DivTriple}
    (h : DivTriple.AgreeBits 62 t (wordTriple eta f0 g0)) :
    divsteps62 eta f0 g0 = ((divsteps 62 t).eta, divstepMatrix 62 t IntMatrix.one) := by
  obtain ⟨heta, hT⟩ := h.run_eq IntMatrix.one
  rw [heta, hT]
  rfl

/-- Settles O38, item by item. -/
theorem divsteps62Properties : Obligations.Divsteps62Properties := by
  refine fun eta f0 g0 hodd => ⟨?det, divsteps62_rowsAtMost eta f0 g0, fun f0' g0' hf hg => ?lowBits,
    fun F G hF hG => ?carries, divstep_eta_natAbs_le, divsteps62_eta_natAbs_le eta f0 g0⟩
  case det =>
    rw [divsteps62, divstepMatrix_det]
    rfl
  case lowBits =>
    have hagree : DivTriple.AgreeBits 62 (wordTriple eta f0' g0') (wordTriple eta f0 g0) :=
      ⟨rfl, by simpa using Int.natCast_modEq_iff.2 hf, by simpa using Int.natCast_modEq_iff.2 hg⟩
    exact (divsteps62_of_agreeBits hagree).symm
  case carries =>
    have hFodd : F % 2 = 1 := by omega
    rw [divsteps62_of_agreeBits (t := ⟨eta.toInt, F, G⟩) ⟨rfl, hF, hG⟩]
    obtain ⟨hf, hg⟩ := divstepMatrix_one_carries 62 (t := ⟨eta.toInt, F, G⟩) hFodd
    dsimp only
    exact ⟨rfl, hf, hg⟩

end Sys2Proof.Machine
end

section
/-! SUPPORT. The two divstep commands (41_divsteps.md R77, R79): the range check on η, and the registers written. -/

namespace Sys2Proof.Machine

theorem etaOk_iff {eta : Int} : etaOk eta = true ↔ -745 ≤ eta ∧ eta ≤ 745 := by
  rw [etaOk, decide_eq_true_eq, etaBound]

/-- The ETA_RANGE check reads η₀ to η_n (R79 check 2). -/
theorem etaStaysOk_iff {n : Nat} {t : DivTriple} :
    etaStaysOk n t = true ↔ ∀ k ≤ n, -745 ≤ (divsteps k t).eta ∧ (divsteps k t).eta ≤ 745 := by
  induction n generalizing t with
  | zero => simp [etaStaysOk, etaOk_iff, divsteps]
  | succ n ih =>
    simp only [etaStaysOk, Bool.and_eq_true, ih, etaOk_iff]
    constructor
    · rintro ⟨h0, hrest⟩ (_ | k) hk
      · exact h0
      · exact hrest k (Nat.le_of_succ_le_succ hk)
    · exact fun h => ⟨h 0 (Nat.zero_le _), fun k hk => h (k + 1) (Nat.succ_le_succ hk)⟩

/-- An η in the range of R79 and a matrix whose row sums are at most 2^62 are what the registers give back (R78 item
2). -/
theorem setDivsteps_result (r : Regs) {res : Int × IntMatrix} (hlo : -745 ≤ res.1) (hhi : res.1 ≤ 745)
    (hT : res.2.RowsAtMost (2 ^ 62)) :
    (r.setDivsteps res).eta.toInt = res.1 ∧ (r.setDivsteps res).matrix = res.2 := by
  have hentry : ∀ {a : Int}, a.natAbs ≤ 2 ^ 62 → (BitVec.ofInt 64 a).toInt = a := fun ha =>
    BitVec.toInt_ofInt_eq_self (by decide) (by omega) (by omega)
  obtain ⟨huv, hqr⟩ := hT
  refine ⟨setDivsteps_eta_toInt r res.2 hlo hhi, ?_⟩
  simp only [Regs.setDivsteps, Regs.matrix, hentry (show res.2.u.natAbs ≤ 2 ^ 62 by omega),
    hentry (show res.2.v.natAbs ≤ 2 ^ 62 by omega), hentry (show res.2.q.natAbs ≤ 2 ^ 62 by omega),
    hentry (show res.2.r.natAbs ≤ 2 ^ 62 by omega)]

/-- The two commands have one rule (R80, R82). -/
theorem ruleOf_of_divsteps {i : Instr} (hi : i = .divstepsCt ∨ i = .divstepsVt) (checks : Bool) :
    ruleOf checks i = divstepsRule := by
  rcases hi with rfl | rfl <;> rfl

/-- Settles O37: the checks stand in the order of R79. -/
theorem divstepCommandsResult : Obligations.DivstepCommandsResult := by
  refine fun s i hi => ⟨fun hodd hrange => ?done, fun heven => exec_of_rule_error ?fEven,
    fun hodd ⟨k, hk, hout⟩ => exec_of_rule_error ?etaRange⟩
  case done =>
    have hstays : etaStaysOk stepsPerMatrix (wordTriple s.regs.eta s.regs.f.v0 s.regs.g.v0) = true :=
      etaStaysOk_iff.2 hrange
    have hrule : ruleOf s.status.checks i s.regs =
        .ok (s.regs.setDivsteps (divsteps62 s.regs.eta s.regs.f.v0 s.regs.g.v0)) := by
      rw [ruleOf_of_divsteps hi, divstepsRule_eq, if_pos hodd, if_pos hstays]
    have hlast := hrange stepsPerMatrix (le_refl _)
    rw [← divsteps62_fst] at hlast
    exact ⟨_, exec_of_rule_ok hrule, rfl, setDivsteps_result s.regs hlast.1 hlast.2 (divsteps62_rowsAtMost _ _ _)⟩
  case fEven => rw [ruleOf_of_divsteps hi, divstepsRule_eq, if_neg (by omega)]
  case etaRange =>
    have hfails : ¬etaStaysOk stepsPerMatrix (wordTriple s.regs.eta s.regs.f.v0 s.regs.g.v0) = true :=
      fun h => by have := etaStaysOk_iff.1 h k hk; omega
    rw [ruleOf_of_divsteps hi, divstepsRule_eq, if_pos hodd, if_neg hfails]

end Sys2Proof.Machine
end

section
/-! SUPPORT. Words that hold the low bits of an integer, and what it is for the working words of a procedure to hold a
triple and a matrix (41_divsteps.md R80, R82: "Every operation below is on 64-bit patterns mod 2^64"). -/

namespace Sys2Proof.Machine

/-! ### Words and the low bits of integers -/

/-- The low n bits of w are those of a. -/
def WordAgrees (n : Nat) (w : Word) (a : Int) : Prop := (w.toNat : Int) ≡ a [ZMOD 2 ^ n]

section WordAgrees
variable {n k : Nat} {w w' : Word} {a a' : Int}

theorem WordAgrees.mono (h : WordAgrees n w a) (hk : k ≤ n) : WordAgrees k w a :=
  h.of_dvd (pow_dvd_pow 2 hk)

/-- Arithmetic on words is that of integers modulo 2^64, so it keeps any n ≤ 64 low bits. -/
theorem wordAgrees_of_emod (hn : n ≤ 64) (h : (w.toNat : Int) = a % 2 ^ 64) : WordAgrees n w a := by
  have h64 : WordAgrees 64 w a := by rw [WordAgrees, h]; exact Int.mod_modEq a _
  exact h64.mono hn

theorem WordAgrees.of_modEq (h : WordAgrees n w a) (ha : a ≡ a' [ZMOD 2 ^ n]) : WordAgrees n w a' := h.trans ha

theorem wordAgrees_toNat (n : Nat) (w : Word) : WordAgrees n w w.toNat := Int.ModEq.refl _

theorem wordAgrees_ofNat (m : Nat) : WordAgrees 64 (BitVec.ofNat 64 m) m :=
  wordAgrees_of_emod (le_refl _) (by rw [BitVec.toNat_ofNat]; push_cast; rfl)

theorem wordAgrees_toInt (hn : n ≤ 64) (w : Word) : WordAgrees n w w.toInt :=
  wordAgrees_of_emod hn (by rw [BitVec.toInt_eq_toNat_cond]; split <;> omega)

theorem WordAgrees.add (hn : n ≤ 64) (h : WordAgrees n w a) (h' : WordAgrees n w' a') :
    WordAgrees n (w + w') (a + a') :=
  (wordAgrees_of_emod hn (by rw [BitVec.toNat_add]; push_cast; rfl)).of_modEq (Int.ModEq.add h h')

theorem WordAgrees.mul (hn : n ≤ 64) (h : WordAgrees n w a) (h' : WordAgrees n w' a') :
    WordAgrees n (w * w') (a * a') :=
  (wordAgrees_of_emod hn (by rw [BitVec.toNat_mul]; push_cast; rfl)).of_modEq (Int.ModEq.mul h h')

theorem WordAgrees.neg (hn : n ≤ 64) (h : WordAgrees n w a) : WordAgrees n (-w) (-a) :=
  (wordAgrees_of_emod hn (by rw [BitVec.toNat_neg]; omega)).of_modEq (Int.ModEq.neg h)

theorem WordAgrees.sub (hn : n ≤ 64) (h : WordAgrees n w a) (h' : WordAgrees n w' a') :
    WordAgrees n (w - w') (a - a') := by
  rw [sub_eq_add_neg, sub_eq_add_neg]
  exact h.add hn (h'.neg hn)

theorem WordAgrees.shiftLeft (hn : n ≤ 64) (h : WordAgrees n w a) (k : Nat) :
    WordAgrees n (w <<< k) (2 ^ k * a) :=
  (wordAgrees_of_emod hn (by rw [BitVec.toNat_shiftLeft, Nat.shiftLeft_eq, mul_comm]; push_cast; rfl)).of_modEq
    (Int.ModEq.mul_left _ h)

/-- A right shift by k loses k known bits. -/
theorem WordAgrees.ushiftRight (h : WordAgrees (n + k) w a) : WordAgrees n (w >>> k) (a / 2 ^ k) := by
  obtain ⟨c, hc⟩ := h.dvd
  have ha : a = w.toNat + 2 ^ k * (2 ^ n * c) := by
    rw [← sub_eq_iff_eq_add', hc]
    ring
  rw [WordAgrees, BitVec.toNat_ushiftRight, Nat.shiftRight_eq_div_pow, ha,
    Int.add_mul_ediv_left _ _ (by positivity)]
  simp [Int.ModEq]

theorem WordAgrees.double (h : WordAgrees 64 w a) : WordAgrees 64 (w <<< 1) (2 * a) := h.shiftLeft (le_refl _) 1

theorem WordAgrees.half (h : WordAgrees (n + 1) w a) : WordAgrees n (w >>> 1) (a / 2) := h.ushiftRight

theorem WordAgrees.odd_iff (hn : 0 < n) (h : WordAgrees n w a) : w.toNat % 2 = 1 ↔ a % 2 = 1 := by
  have hpar := parity_of_modEq (n := 0) (h.mono hn)
  omega

/-- All 64 bits of an integer in the signed range give it back. -/
theorem WordAgrees.toInt_eq (h : WordAgrees 64 w a) (hlo : -2 ^ 63 ≤ a) (hhi : a < 2 ^ 63) : w.toInt = a := by
  have hemod : (w.toNat : Int) % 2 ^ 64 = a % 2 ^ 64 := h
  rw [BitVec.toInt_eq_toNat_cond]
  split <;> omega

theorem wordAgrees_one : WordAgrees n 1 1 := wordAgrees_toNat n 1

end WordAgrees

/-! ### The working words of a procedure -/

/-- The words s of a procedure with n divsteps to go hold η, the low n bits of F and G, and T modulo 2^64. -/
structure WordLoop.Tracks (n : Nat) (s : WordLoop) (t : DivTriple) (T : IntMatrix) : Prop where
  bits : n < 64
  etaRoom : t.eta.natAbs + n < 2 ^ 63
  eta : WordAgrees 64 s.eta t.eta
  f : WordAgrees n s.f t.f
  g : WordAgrees n s.g t.g
  u : WordAgrees 64 s.u T.u
  v : WordAgrees 64 s.v T.v
  q : WordAgrees 64 s.q T.q
  r : WordAgrees 64 s.r T.r

section Tracks
variable {n : Nat} {s : WordLoop} {t : DivTriple} {T : IntMatrix}

theorem WordLoop.Tracks.eta_toInt (h : s.Tracks n t T) : s.eta.toInt = t.eta := by
  have hroom := h.etaRoom
  exact h.eta.toInt_eq (by omega) (by omega)

theorem tracks_start {eta f0 g0 : Word} (hlo : -745 ≤ eta.toInt) (hhi : eta.toInt ≤ 745) :
    (WordLoop.start eta f0 g0).Tracks stepsPerMatrix (wordTriple eta f0 g0) IntMatrix.one where
  bits := by decide
  etaRoom := by
    rw [wordTriple_eta, stepsPerMatrix]
    omega
  eta := wordAgrees_toInt (le_refl _) eta
  f := wordAgrees_toNat _ f0
  g := wordAgrees_toNat _ g0
  u := wordAgrees_toNat 64 1
  v := wordAgrees_toNat 64 0
  q := wordAgrees_toNat 64 0
  r := wordAgrees_toNat 64 1

/-- Words that hold the matrix of a run modulo 2^64 give it exactly by the final cast (R80). -/
theorem WordLoop.Tracks.result {eta f0 g0 : Word}
    (h : s.Tracks 0 (divsteps stepsPerMatrix (wordTriple eta f0 g0))
      (divstepMatrix stepsPerMatrix (wordTriple eta f0 g0) IntMatrix.one)) :
    s.eta.toInt = (divsteps62 eta f0 g0).1 ∧ s.matrix = (divsteps62 eta f0 g0).2 := by
  obtain ⟨huv, hqr⟩ := divsteps62_rowsAtMost eta f0 g0
  refine ⟨by rw [h.eta_toInt, divsteps62_fst], ?_⟩
  rw [divsteps62] at huv hqr ⊢
  dsimp only at huv hqr ⊢
  rw [WordLoop.matrix, h.u.toInt_eq (by omega) (by omega), h.v.toInt_eq (by omega) (by omega),
    h.q.toInt_eq (by omega) (by omega), h.r.toInt_eq (by omega) (by omega)]

end Tracks

end Sys2Proof.Machine
end

section
/-! SUPPORT. DIVSTEPS_CT's word sequence (41_divsteps.md R80): its masks, and one pass in each case of R76. -/

namespace Sys2Proof.Machine

/-! ### The masks -/

/-- `eta >> 63` is all ones when η is negative and 0 otherwise. -/
theorem sshiftRight_sign (w : Word) : w.sshiftRight 63 = if w.toInt < 0 then BitVec.allOnes 64 else 0#64 := by
  have hlo := BitVec.le_toInt w
  have hhi := BitVec.toInt_lt (x := w)
  rw [BitVec.sshiftRight_eq, Int.shiftRight_eq_div_pow]
  split
  · rw [show w.toInt / ((2 ^ 63 : Nat) : Int) = -1 by omega]
    rfl
  · rw [show w.toInt / ((2 ^ 63 : Nat) : Int) = 0 by omega]
    rfl

/-- `−(g & 1)` is all ones when g is odd and 0 otherwise. -/
theorem neg_and_one (w : Word) : -(w &&& 1#64) = if w.toNat % 2 = 1 then BitVec.allOnes 64 else 0#64 := by
  have hand : w &&& 1#64 = BitVec.ofNat 64 (w.toNat % 2) := by
    apply BitVec.eq_of_toNat_eq
    rw [BitVec.toNat_and, BitVec.toNat_ofNat, BitVec.toNat_ofNat, Nat.mod_eq_of_lt (by decide : 1 < 2 ^ 64),
      Nat.and_one_is_mod]
    omega
  rw [hand]
  obtain h | h := Nat.mod_two_eq_zero_or_one w.toNat <;> rw [h] <;> rfl

theorem not_eq_neg_sub_one (w : Word) : ~~~w = -w - 1#64 :=
  eq_sub_of_add_eq (BitVec.neg_eq_not_add w).symm

/-- The masked negation `(x ^ c) − c` with c all ones. -/
theorem not_sub_allOnes (w : Word) : ~~~w - BitVec.allOnes 64 = -w := by
  rw [not_eq_neg_sub_one, ← BitVec.neg_one_eq_allOnes, sub_neg_eq_add, BitVec.sub_add_cancel]

theorem allOnes_add_one : BitVec.allOnes 64 + 1#64 = 0#64 := by decide

section CtPass
variable {s : WordLoop}

theorem ctPass_of_swap (heta : s.eta.toInt < 0) (hg : s.g.toNat % 2 = 1) : ctPass s =
    ⟨-s.eta - 1, s.g, (s.g - s.f) >>> 1, s.q <<< 1, s.r <<< 1, s.q - s.u, s.r - s.v⟩ := by
  simp only [ctPass, sshiftRight_sign, neg_and_one, if_pos heta, if_pos hg, BitVec.and_allOnes,
    BitVec.xor_allOnes, not_sub_allOnes, allOnes_add_one, BitVec.sub_zero, ← sub_eq_add_neg,
    add_sub_cancel]
  rw [not_eq_neg_sub_one]
  rfl

theorem ctPass_of_add (heta : 0 ≤ s.eta.toInt) (hg : s.g.toNat % 2 = 1) : ctPass s =
    ⟨s.eta - 1, s.f, (s.g + s.f) >>> 1, s.u <<< 1, s.v <<< 1, s.q + s.u, s.r + s.v⟩ := by
  simp only [ctPass, sshiftRight_sign, neg_and_one, if_neg heta.not_gt, if_pos hg, BitVec.and_allOnes,
    BitVec.and_zero, BitVec.xor_zero, BitVec.sub_zero, BitVec.add_zero, BitVec.zero_add]
  rfl

theorem ctPass_of_even (hg : s.g.toNat % 2 = 0) : ctPass s =
    ⟨s.eta - 1, s.f, s.g >>> 1, s.u <<< 1, s.v <<< 1, s.q, s.r⟩ := by
  have hodd : ¬s.g.toNat % 2 = 1 := by omega
  simp only [ctPass, neg_and_one, if_neg hodd, BitVec.and_zero, BitVec.xor_zero, BitVec.add_zero, BitVec.zero_add]
  rfl

end CtPass

/-! ### The passes -/

section CtPasses
variable {n : Nat} {s : WordLoop} {t : DivTriple} {T : IntMatrix}

/-- A pass is a divstep on the words (R80). -/
theorem WordLoop.Tracks.ctPass (h : s.Tracks (n + 1) t T) : (ctPass s).Tracks n (divstep t) (stepMatrix t T) := by
  have hbits : n < 64 := Nat.lt_of_succ_lt h.bits
  have hroom : (divstep t).eta.natAbs + n < 2 ^ 63 := by
    have := divstep_eta_natAbs_le t
    have := h.etaRoom
    omega
  have hodd := h.g.odd_iff n.succ_pos
  have hlast := h.bits.le
  have h64 := le_refl 64
  have hsign := h.eta_toInt
  have hmono : n ≤ n + 1 := n.le_succ
  obtain ⟨heta, hg⟩ | ⟨heta, hg⟩ | hg := t.cases
  · rw [ctPass_of_swap (hsign ▸ heta) (hodd.2 hg), stepMatrix_of_swap heta hg]
    rw [divstep_of_swap heta hg] at hroom ⊢
    exact ⟨hbits, hroom, (h.eta.neg h64).sub h64 wordAgrees_one, h.g.mono hmono, (h.g.sub hlast h.f).half,
      h.q.double, h.r.double, h.q.sub h64 h.u, h.r.sub h64 h.v⟩
  · rw [ctPass_of_add (hsign ▸ heta) (hodd.2 hg), stepMatrix_of_add heta hg]
    rw [divstep_of_add heta hg] at hroom ⊢
    exact ⟨hbits, hroom, h.eta.sub h64 wordAgrees_one, h.f.mono hmono, (h.g.add hlast h.f).half,
      h.u.double, h.v.double, h.q.add h64 h.u, h.r.add h64 h.v⟩
  · rw [ctPass_of_even (by omega), stepMatrix_of_even hg]
    rw [divstep_of_even hg] at hroom ⊢
    exact ⟨hbits, hroom, h.eta.sub h64 wordAgrees_one, h.f.mono hmono, h.g.half,
      h.u.double, h.v.double, h.q, h.r⟩

theorem WordLoop.Tracks.ctPasses (h : s.Tracks n t T) :
    (ctPasses n s).Tracks 0 (divsteps n t) (divstepMatrix n t T) := by
  induction n generalizing s t T with
  | zero => exact h
  | succ n ih => exact ih h.ctPass

end CtPasses

/-- Settles O39: the 62 passes track 62 divsteps. -/
theorem ctProcedureComputesDivsteps62 : Obligations.CtProcedureComputesDivsteps62 :=
  fun _ _ _ _ hlo hhi => (tracks_start hlo hhi).ctPasses.result

end Sys2Proof.Machine
end

section
/-! SUPPORT. The ideas of R83 on exact integers: a run of third-case divsteps is a division by a power of 2, the swap
changes no divstep, and a multiple of F added to G stands for the second-case divsteps it saves. -/

namespace Sys2Proof.Machine

/-- Two starts from which n divsteps give the same triple and the same matrix. -/
structure SameRun (n : Nat) (t : DivTriple) (T : IntMatrix) (t' : DivTriple) (T' : IntMatrix) : Prop where
  triple : divsteps n t = divsteps n t'
  matrix : divstepMatrix n t T = divstepMatrix n t' T'

section SameRun
variable {m n : Nat} {t t' t'' : DivTriple} {T T' T'' : IntMatrix}

theorem SameRun.trans (h : SameRun n t T t' T') (h' : SameRun n t' T' t'' T'') : SameRun n t T t'' T'' :=
  ⟨h.triple.trans h'.triple, h.matrix.trans h'.matrix⟩

theorem SameRun.of_le (h : SameRun m t T t' T') (hmn : m ≤ n) : SameRun n t T t' T' := by
  obtain ⟨k, rfl⟩ := Nat.exists_eq_add_of_le hmn
  exact ⟨by rw [divsteps_add, divsteps_add, h.triple],
    by rw [divstepMatrix_add, divstepMatrix_add, h.triple, h.matrix]⟩

/-- Runs are the same when they are after the first divstep. -/
theorem SameRun.succ (h : SameRun n (divstep t) (stepMatrix t T) (divstep t') (stepMatrix t' T')) :
    SameRun (n + 1) t T t' T' := ⟨h.triple, h.matrix⟩

end SameRun

/-! ### Trailing zeros of G -/

theorem divsteps_of_dvd {n : Nat} {t : DivTriple} (h : (2 : Int) ^ n ∣ t.g) :
    divsteps n t = ⟨t.eta - n, t.f, t.g / 2 ^ n⟩ := by
  induction n generalizing t with
  | zero => simp [divsteps]
  | succ n ih =>
    obtain ⟨c, hc⟩ := h
    have hg : t.g = 2 * (2 ^ n * c) := by rw [hc]; ring
    have hhalf : t.g / 2 = 2 ^ n * c := by omega
    rw [divsteps, divstep_of_even (by omega), ih (by simp [hhalf]), hhalf, hc,
      Int.mul_ediv_cancel_left _ (by positivity), Int.mul_ediv_cancel_left _ (by positivity)]
    push_cast
    ring_nf

theorem divstepMatrix_of_dvd {n : Nat} {t : DivTriple} (h : (2 : Int) ^ n ∣ t.g) (T : IntMatrix) :
    divstepMatrix n t T = ⟨2 ^ n * T.u, 2 ^ n * T.v, T.q, T.r⟩ := by
  induction n generalizing t T with
  | zero => simp [divstepMatrix]
  | succ n ih =>
    obtain ⟨c, hc⟩ := h
    have hg : t.g = 2 * (2 ^ n * c) := by rw [hc]; ring
    have hhalf : t.g / 2 = 2 ^ n * c := by omega
    have heven : t.g % 2 = 0 := by omega
    rw [divstepMatrix, stepMatrix_of_even heven, divstep_of_even heven, ih (by simp [hhalf])]
    ring_nf

/-! ### The swap -/

/-- η ← −η, (f, g) ← (g, −f) (R82 item 2). -/
def DivTriple.swap (t : DivTriple) : DivTriple := ⟨-t.eta, t.g, -t.f⟩

/-- (u, v, q, r) ← (q, r, −u, −v) (R82 item 2, C3). -/
def IntMatrix.swap (T : IntMatrix) : IntMatrix := ⟨T.q, T.r, -T.u, -T.v⟩

/-- A first-case divstep is a second-case divstep after the swap (R83). -/
theorem sameRun_swap {t : DivTriple} {T : IntMatrix} (heta : t.eta < 0) (hf : t.f % 2 = 1)
    (hg : t.g % 2 = 1) : SameRun 1 t.swap T.swap t T := by
  have heta' : 0 ≤ t.swap.eta := by simp only [DivTriple.swap]; omega
  have hg' : t.swap.g % 2 = 1 := by simp only [DivTriple.swap]; omega
  apply SameRun.succ (n := 0)
  rw [divstep_of_swap heta hg, stepMatrix_of_swap heta hg, divstep_of_add heta' hg', stepMatrix_of_add heta' hg']
  simp only [DivTriple.swap, IntMatrix.swap, neg_add_eq_sub]
  exact ⟨rfl, rfl⟩

/-! ### A multiple of F added to G -/

/-- g ← g + f·w (R82 item 3). -/
def DivTriple.addMultiple (w : Nat) (t : DivTriple) : DivTriple := ⟨t.eta, t.f, t.g + t.f * w⟩

/-- q ← q + u·w; r ← r + v·w (R82 item 3). -/
def IntMatrix.addMultiple (w : Nat) (T : IntMatrix) : IntMatrix := ⟨T.u, T.v, T.q + T.u * w, T.r + T.v * w⟩

section AddMultiple
variable {t : DivTriple} {w : Nat}

theorem addMultiple_g_two_mul (t : DivTriple) (v : Nat) : (t.addMultiple (2 * v)).g = t.g + 2 * (t.f * v) := by
  simp only [DivTriple.addMultiple]
  push_cast
  ring

theorem addMultiple_g_two_mul_add_one (t : DivTriple) (v : Nat) :
    (t.addMultiple (2 * v + 1)).g = t.g + t.f + 2 * (t.f * v) := by
  simp only [DivTriple.addMultiple]
  push_cast
  ring

/-- When g + f·w is even, bit 0 of w says whether g is odd, that is whether the divstep adds f. -/
theorem exists_half_of_addMultiple_even (hf : t.f % 2 = 1) (heven : (t.addMultiple w).g % 2 = 0) :
    ∃ v, (t.g % 2 = 0 ∧ w = 2 * v) ∨ (t.g % 2 = 1 ∧ w = 2 * v + 1) := by
  obtain ⟨v, rfl | rfl⟩ := Nat.even_or_odd' w
  · rw [addMultiple_g_two_mul] at heven
    exact ⟨v, .inl ⟨by omega, rfl⟩⟩
  · rw [addMultiple_g_two_mul_add_one] at heven
    exact ⟨v, .inr ⟨by omega, rfl⟩⟩

/-- A divstep uses up bit 0 of w, and the rest is left for the later ones. -/
theorem divstep_addMultiple (heta : 0 ≤ t.eta) (hf : t.f % 2 = 1) (heven : (t.addMultiple w).g % 2 = 0) :
    divstep (t.addMultiple w) = (divstep t).addMultiple (w / 2) := by
  rw [divstep_of_even heven]
  obtain ⟨v, ⟨hg, rfl⟩ | ⟨hg, rfl⟩⟩ := exists_half_of_addMultiple_even hf heven
  · rw [addMultiple_g_two_mul, Int.add_mul_ediv_left _ _ two_ne_zero, divstep_of_even hg,
      Nat.mul_div_cancel_left v two_pos]
    rfl
  · rw [addMultiple_g_two_mul_add_one, Int.add_mul_ediv_left _ _ two_ne_zero, divstep_of_add heta hg,
      Nat.mul_add_div two_pos]
    rfl

theorem stepMatrix_addMultiple (heta : 0 ≤ t.eta) (hf : t.f % 2 = 1) (heven : (t.addMultiple w).g % 2 = 0)
    (T : IntMatrix) : stepMatrix (t.addMultiple w) (T.addMultiple w) = (stepMatrix t T).addMultiple (w / 2) := by
  rw [stepMatrix_of_even heven]
  obtain ⟨v, ⟨hg, rfl⟩ | ⟨hg, rfl⟩⟩ := exists_half_of_addMultiple_even hf heven
  · rw [stepMatrix_of_even hg, Nat.mul_div_cancel_left v two_pos]
    simp only [IntMatrix.addMultiple, IntMatrix.mk.injEq, true_and]
    push_cast
    constructor <;> ring
  · rw [stepMatrix_of_add heta hg, Nat.mul_add_div two_pos]
    simp only [IntMatrix.addMultiple, IntMatrix.mk.injEq, true_and]
    push_cast
    constructor <;> ring

theorem divstep_eta_of_nonneg (heta : 0 ≤ t.eta) : (divstep t).eta = t.eta - 1 := by
  obtain ⟨hneg, -⟩ | ⟨-, hg⟩ | hg := t.cases
  · omega
  · rw [divstep_of_add heta hg]
  · rw [divstep_of_even hg]

/-- With g + f·w divisible by 2^n and w < 2^n, n divsteps from η ≥ n − 1 add w·f to g and shift n times (R83). -/
theorem sameRun_addMultiple {n : Nat} {T : IntMatrix} (heta : n ≤ t.eta + 1) (hf : t.f % 2 = 1) (hw : w < 2 ^ n)
    (hdvd : (2 : Int) ^ n ∣ (t.addMultiple w).g) : SameRun n (t.addMultiple w) (T.addMultiple w) t T := by
  induction n generalizing t T w with
  | zero =>
    obtain rfl : w = 0 := by simpa using hw
    simpa [DivTriple.addMultiple, IntMatrix.addMultiple] using SameRun.mk (n := 0) (t := t) (T := T) rfl rfl
  | succ n ih =>
    push_cast at heta
    have heta0 : 0 ≤ t.eta := by omega
    have heven : (t.addMultiple w).g % 2 = 0 :=
      Int.emod_eq_zero_of_dvd (dvd_trans (dvd_pow_self 2 n.succ_ne_zero) hdvd)
    have hstep := divstep_addMultiple heta0 hf heven
    apply SameRun.succ
    rw [hstep, stepMatrix_addMultiple heta0 hf heven]
    refine ih ?_ (divstep_f_odd hf) (by rw [pow_succ] at hw; omega) ?_
    · rw [divstep_eta_of_nonneg heta0]
      omega
    · rw [← hstep, divstep_of_even heven]
      exact Int.dvd_div_of_mul_dvd (by rwa [← pow_succ'])

end AddMultiple

end Sys2Proof.Machine
end

section
/-! SUPPORT. DIVSTEPS_VT's loop (41_divsteps.md R82 to R84): the zero count, the two multipliers, one pass, and the
loop. -/

namespace Sys2Proof.Machine

/-! ### The zero count -/

theorem getLsbD_of_lt_ctzUpTo {n j : Nat} {w : Word} (h : j < ctzUpTo n w) : w.getLsbD j = false := by
  induction n generalizing j w with
  | zero => exact absurd h (Nat.not_lt_zero j)
  | succ n ih =>
    rw [ctzUpTo] at h
    split at h
    · exact absurd h (Nat.not_lt_zero j)
    · rename_i hzero
      cases j with
      | zero => simpa using hzero
      | succ j => simpa [Nat.add_comm] using ih (Nat.lt_of_succ_lt_succ h)

theorem getLsbD_ctzUpTo {n k : Nat} {w : Word} (hk : k < n) (h : w.getLsbD k = true) :
    w.getLsbD (ctzUpTo n w) = true := by
  induction n generalizing k w with
  | zero => exact absurd hk (Nat.not_lt_zero k)
  | succ n ih =>
    rw [ctzUpTo]
    split
    · assumption
    · rename_i hzero
      cases k with
      | zero => exact absurd h hzero
      | succ k =>
        have hbit := ih (w := w >>> 1) (Nat.lt_of_succ_lt_succ hk) (by simpa [Nat.add_comm] using h)
        simpa [Nat.add_comm] using hbit

/-- The trailing zeros of g, at most i of them. -/
def vtZeros (i : Nat) (g : Word) : Nat := ctz (g ||| (ones <<< i))

section Zeros
variable {i : Nat} {g : Word}

/-- The word counted has the bits of g below i and ones from i on. -/
theorem getLsbD_sentinel (hi : i < 64) (j : Nat) (hj : j < 64) :
    (g ||| (ones <<< i)).getLsbD j = (g.getLsbD j || !decide (j < i)) := by
  have hsub : j - i < 64 := by omega
  rw [BitVec.getLsbD_or, BitVec.getLsbD_shiftLeft, ones, BitVec.getLsbD_allOnes]
  simp [hj, hsub]

theorem vtZeros_le (hi : i < 64) : vtZeros i g ≤ i := by
  by_contra hlt
  have hzero := getLsbD_of_lt_ctzUpTo (not_le.1 hlt)
  rw [getLsbD_sentinel hi i hi] at hzero
  simp at hzero

theorem getLsbD_of_lt_vtZeros (hi : i < 64) {j : Nat} (hj : j < vtZeros i g) : g.getLsbD j = false := by
  have hle := vtZeros_le (g := g) hi
  have hzero := getLsbD_of_lt_ctzUpTo hj
  rw [getLsbD_sentinel hi j (by omega), Bool.or_eq_false_iff] at hzero
  exact hzero.1

/-- The zeros counted are shifted out. -/
theorem dvd_of_vtZeros (hi : i < 64) : 2 ^ vtZeros i g ∣ g.toNat := by
  apply Nat.dvd_of_mod_eq_zero
  apply Nat.eq_of_testBit_eq
  intro j
  rw [Nat.testBit_mod_two_pow, Nat.zero_testBit, BitVec.testBit_toNat]
  by_cases hj : j < vtZeros i g
  · rw [getLsbD_of_lt_vtZeros hi hj, Bool.and_false]
  · simp [hj]

/-- Short of i zeros, the bit after them is a one. -/
theorem getLsbD_vtZeros (hi : i < 64) (hlt : vtZeros i g < i) : g.getLsbD (vtZeros i g) = true := by
  have hsentinel : (g ||| (ones <<< i)).getLsbD i = true := by simp [getLsbD_sentinel hi i hi]
  have hone : (g ||| (ones <<< i)).getLsbD (vtZeros i g) = true := getLsbD_ctzUpTo hi hsentinel
  rw [getLsbD_sentinel hi _ (by omega)] at hone
  simpa [hlt] using hone

theorem toNat_mod_two (w : Word) : w.toNat % 2 = (w.getLsbD 0).toNat := by
  rw [← BitVec.testBit_toNat, Nat.toNat_testBit]
  simp

theorem shifted_odd (hi : i < 64) (hlt : vtZeros i g < i) : (g >>> vtZeros i g).toNat % 2 = 1 := by
  rw [toNat_mod_two, BitVec.getLsbD_ushiftRight, Nat.add_zero, getLsbD_vtZeros hi hlt]
  rfl

theorem vtZeros_pos (hi : i < 64) (hi0 : 0 < i) (heven : g.toNat % 2 = 0) : 0 < vtZeros i g := by
  by_contra hnot
  have hzero : vtZeros i g = 0 := by omega
  have hodd := shifted_odd (g := g) hi (by omega)
  rw [hzero, BitVec.ushiftRight_zero] at hodd
  omega

end Zeros

theorem vtShift_eq (i : Nat) (s : WordLoop) : vtShift i s =
    (i - vtZeros i s.g,
      { s with
        g := s.g >>> vtZeros i s.g
        u := s.u <<< vtZeros i s.g
        v := s.v <<< vtZeros i s.g
        eta := s.eta - BitVec.ofNat 64 (vtZeros i s.g) }) := rfl

/-! ### The multipliers -/

section Multiplier
variable {f g : Word}

theorem getLsbD_zero_of_odd (hf : f.toNat % 2 = 1) (n : Nat) : (f.setWidth (n + 1)).getLsbD 0 = true := by
  rw [toNat_mod_two] at hf
  simpa using hf

/-- The t of the straight branch (R82 item 3). -/
abbrev straightInverse (f : Word) : Word := f + (((f + 1#64) &&& 4#64) <<< 1)

/-- It is the inverse of f modulo 2^4 (R83). -/
theorem mul_straightInverse (hf : f.toNat % 2 = 1) : (f * straightInverse f).setWidth 4 = 1#4 := by
  have hall : ∀ x : BitVec 4, x.getLsbD 0 = true → x * (x + (((x + 1#4) &&& 4#4) <<< 1)) = 1#4 := by decide
  rw [BitVec.setWidth_mul _ _ (by decide), BitVec.setWidth_add _ _ (by decide),
    BitVec.setWidth_shiftLeft_of_le (by decide), BitVec.setWidth_and, BitVec.setWidth_add _ _ (by decide)]
  exact hall _ (getLsbD_zero_of_odd hf 3)

/-- f·(f·f − 2) is minus the inverse of f modulo 2^6 (R83). -/
theorem mul_swappedInverse (hf : f.toNat % 2 = 1) : (f * (f * (f * f - 2#64))).setWidth 6 = -1#6 := by
  have hall : ∀ x : BitVec 6, x.getLsbD 0 = true → x * (x * (x * x + -2#6)) = -1#6 := by decide
  rw [sub_eq_add_neg, BitVec.setWidth_mul _ _ (by decide), BitVec.setWidth_mul _ _ (by decide),
    BitVec.setWidth_add _ _ (by decide), BitVec.setWidth_mul _ _ (by decide)]
  exact hall _ (getLsbD_zero_of_odd hf 5)

/-- x cancels the low k bits of g: those of g + f·x are 0. -/
def CancelsBits (k : Nat) (f g x : Word) : Prop := (g + f * x).setWidth k = 0#k

theorem straight_cancels (hf : f.toNat % 2 = 1) : CancelsBits 4 f g (-straightInverse f * g) := by
  have hfactor : g + f * (-straightInverse f * g) = g * (1 + -(f * straightInverse f)) := by ring
  rw [CancelsBits, hfactor, BitVec.setWidth_mul _ _ (by decide), BitVec.setWidth_add _ _ (by decide),
    BitVec.setWidth_neg_of_le (by decide), mul_straightInverse hf]
  simp

theorem swapped_cancels (hf : f.toNat % 2 = 1) : CancelsBits 6 f g (f * g * (f * f - 2#64)) := by
  have hfactor : g + f * (f * g * (f * f - 2#64)) = g * (1 + f * (f * (f * f - 2#64))) := by ring
  rw [CancelsBits, hfactor, BitVec.setWidth_mul _ _ (by decide), BitVec.setWidth_add _ _ (by decide),
    mul_swappedInverse hf]
  simp

/-- The mask m of R82 keeps the low min(limit, k) bits (C4). -/
theorem toNat_and_mask (x : Word) {m : Word} {l k : Nat} (hl : l ≤ 64) (hm : m.toNat = 2 ^ k - 1) :
    (x &&& ((ones >>> (64 - l)) &&& m)).toNat = x.toNat % 2 ^ min l k := by
  apply Nat.eq_of_testBit_eq
  intro b
  rw [BitVec.toNat_and, BitVec.toNat_and, ones, BitVec.toNat_ushiftRight, BitVec.toNat_allOnes, hm,
    Nat.testBit_and, Nat.testBit_and, Nat.testBit_shiftRight, Nat.testBit_two_pow_sub_one,
    Nat.testBit_two_pow_sub_one, Nat.testBit_mod_two_pow, Bool.and_comm, ← Bool.decide_and]
  congr 2
  exact propext (by omega)

/-- A word that agrees with x in j ≤ k bits cancels j bits of the integers that f and g hold. -/
theorem CancelsBits.dvd {j k n w : Nat} {x : Word} {F G : Int} (h : CancelsBits k f g x) (hjk : j ≤ k) (hjn : j ≤ n)
    (hn : n ≤ 64) (hw : w = x.toNat % 2 ^ j) (hf : WordAgrees n f F) (hg : WordAgrees n g G) :
    (2 : Int) ^ j ∣ G + F * w := by
  have hx : WordAgrees j x w := by
    rw [WordAgrees, hw]
    exact_mod_cast (Int.mod_modEq (x.toNat : Int) (2 ^ j)).symm
  have hsum : WordAgrees j (g + f * x) (G + F * w) :=
    (hg.mono hjn).add (hjn.trans hn) ((hf.mono hjn).mul (hjn.trans hn) hx)
  have hzero : (g + f * x).toNat % 2 ^ k = 0 := by
    rw [← BitVec.toNat_setWidth, h]
    rfl
  have hdvd : 2 ^ j ∣ (g + f * x).toNat := dvd_trans (pow_dvd_pow 2 hjk) (Nat.dvd_of_mod_eq_zero hzero)
  exact (Int.ModEq.dvd_iff hsum).1 (by exact_mod_cast hdvd)

end Multiplier

/-! ### One pass -/

section Pass
variable {i : Nat} {s : WordLoop} {t : DivTriple} {T : IntMatrix}

/-- The zero count runs as many third-case divsteps (R83). -/
theorem WordLoop.Tracks.vtShift (h : s.Tracks i t T) :
    (vtShift i s).2.Tracks (vtShift i s).1 (divsteps (vtZeros i s.g) t) (divstepMatrix (vtZeros i s.g) t T) := by
  have hle := vtZeros_le (g := s.g) h.bits
  have hroom := h.etaRoom
  have h64 := le_refl 64
  have hdvd : (2 : Int) ^ vtZeros i s.g ∣ t.g :=
    (Int.ModEq.dvd_iff (h.g.mono hle)).1 (by exact_mod_cast dvd_of_vtZeros h.bits)
  rw [vtShift_eq, divsteps_of_dvd hdvd, divstepMatrix_of_dvd hdvd]
  exact {
    bits := by have := h.bits; dsimp only; omega
    etaRoom := by dsimp only; omega
    eta := h.eta.sub h64 (wordAgrees_ofNat _)
    f := h.f.mono (Nat.sub_le i _)
    g := WordAgrees.ushiftRight (by rw [Nat.sub_add_cancel hle]; exact h.g)
    u := h.u.shiftLeft h64 _
    v := h.v.shiftLeft h64 _
    q := h.q
    r := h.r }

/-- A pass that does not exit has g odd after its zero count. -/
theorem WordLoop.Tracks.vtShift_g_odd (h : s.Tracks i t T) (hlt : vtZeros i s.g < i) :
    (divsteps (vtZeros i s.g) t).g % 2 = 1 :=
  (h.vtShift.g.odd_iff (Nat.sub_pos_of_lt hlt)).1 (shifted_odd h.bits hlt)

/-- From g even, the zero count is at least 1 (R84). -/
theorem WordLoop.Tracks.vtZeros_add_parity_pos (h : s.Tracks i t T) (hi : 0 < i) : 0 < vtZeros i s.g + t.g % 2 := by
  have hparity := h.g.odd_iff hi
  obtain heven | hodd := Nat.mod_two_eq_zero_or_one s.g.toNat
  · have := vtZeros_pos h.bits hi heven
    omega
  · omega

theorem WordLoop.Tracks.vtSwap (h : s.Tracks i t T) : (vtSwap s).Tracks i t.swap T.swap where
  bits := h.bits
  etaRoom := by
    rw [DivTriple.swap, Int.natAbs_neg]
    exact h.etaRoom
  eta := h.eta.neg (le_refl _)
  f := h.g
  g := h.f.neg h.bits.le
  u := h.q
  v := h.r
  q := h.u.neg (le_refl _)
  r := h.v.neg (le_refl _)

theorem WordLoop.Tracks.vtAdd (h : s.Tracks i t T) (w : Word) :
    (vtAdd w s).Tracks i (t.addMultiple w.toNat) (T.addMultiple w.toNat) where
  bits := h.bits
  etaRoom := h.etaRoom
  eta := h.eta
  f := h.f
  g := h.g.add h.bits.le (h.f.mul h.bits.le (wordAgrees_toNat i w))
  u := h.u
  v := h.v
  q := h.q.add (le_refl _) (h.u.mul (le_refl _) (wordAgrees_toNat 64 w))
  r := h.r.add (le_refl _) (h.v.mul (le_refl _) (wordAgrees_toNat 64 w))

/-- With η ≥ 0, adding the multiple that the low min(limit, k) bits of x give changes no divstep and makes g even
(R83). -/
theorem WordLoop.Tracks.sameRun_vtAdd {k : Nat} {x w : Word} (h : s.Tracks i t T) (hi : 0 < i) (hk : 0 < k)
    (heta : 0 ≤ t.eta) (hf : t.f % 2 = 1) (hx : CancelsBits k s.f s.g x)
    (hw : w.toNat = x.toNat % 2 ^ min (vtLimit s.eta i) k) :
    SameRun i (t.addMultiple w.toNat) (T.addMultiple w.toNat) t T ∧ (t.addMultiple w.toNat).g % 2 = 0 := by
  have hlimit : vtLimit s.eta i = min (t.eta + 1).toNat i := by rw [vtLimit, h.eta_toInt]
  have hdvd := hx.dvd (min_le_right (vtLimit s.eta i) k) (by omega : min (vtLimit s.eta i) k ≤ i) h.bits.le hw h.f h.g
  have hlt : w.toNat < 2 ^ min (vtLimit s.eta i) k := hw ▸ Nat.mod_lt _ (by positivity)
  have hrun := sameRun_addMultiple (T := T) (by omega) hf hlt hdvd
  exact ⟨hrun.of_le (by omega), Int.emod_eq_zero_of_dvd (dvd_trans (dvd_pow_self 2 (by omega)) hdvd)⟩

theorem vtLimit_le (eta : Word) (i : Nat) : vtLimit eta i ≤ i := min_le_right _ _

theorem vtMultiplierSwapped_toNat (hi : i ≤ 64) (s : WordLoop) : (vtMultiplierSwapped i s).toNat =
    (s.f * s.g * (s.f * s.f - 2#64)).toNat % 2 ^ min (vtLimit s.eta i) 6 := by
  rw [vtMultiplierSwapped, toNat_and_mask _ ((vtLimit_le s.eta i).trans hi) (k := 6) rfl]

theorem vtMultiplierStraight_toNat (hi : i ≤ 64) (s : WordLoop) : (vtMultiplierStraight i s).toNat =
    (-straightInverse s.f * s.g).toNat % 2 ^ min (vtLimit s.eta i) 4 := by
  rw [vtMultiplierStraight, toNat_and_mask _ ((vtLimit_le s.eta i).trans hi) (k := 4) rfl]

theorem vtCancel_of_neg (heta : s.eta.toInt < 0) :
    vtCancel i s = vtAdd (vtMultiplierSwapped i (vtSwap s)) (vtSwap s) := if_pos heta

theorem vtCancel_of_nonneg (heta : 0 ≤ s.eta.toInt) : vtCancel i s = vtAdd (vtMultiplierStraight i s) s :=
  if_neg heta.not_gt

/-- The part of a pass after the exit test holds words from which the divsteps to go are the same, with g even
(R83). -/
theorem WordLoop.Tracks.vtCancel (h : s.Tracks i t T) (hi : 0 < i) (hf : t.f % 2 = 1) (hg : t.g % 2 = 1) :
    ∃ t' T', (vtCancel i s).Tracks i t' T' ∧ t'.f % 2 = 1 ∧ t'.g % 2 = 0 ∧ SameRun i t' T' t T := by
  have hle := h.bits.le
  obtain heta | heta := lt_or_ge t.eta 0
  · have hswap := h.vtSwap
    have hfodd : (Machine.vtSwap s).f.toNat % 2 = 1 := (hswap.f.odd_iff hi).2 hg
    obtain ⟨hrun, heven⟩ := hswap.sameRun_vtAdd hi (by decide) (by simp only [DivTriple.swap]; omega) hg
      (swapped_cancels hfodd) (vtMultiplierSwapped_toNat hle _)
    rw [vtCancel_of_neg (h.eta_toInt ▸ heta)]
    exact ⟨_, _, hswap.vtAdd _, hg, heven, hrun.trans ((sameRun_swap heta hf hg).of_le hi)⟩
  · obtain ⟨hrun, heven⟩ := h.sameRun_vtAdd hi (by decide) heta hf (straight_cancels ((h.f.odd_iff hi).2 hf))
      (vtMultiplierStraight_toNat hle _)
    rw [vtCancel_of_nonneg (h.eta_toInt ▸ heta)]
    exact ⟨_, _, h.vtAdd _, hf, heven, hrun⟩

/-! ### The loop -/

theorem vtLoopWords_succ (fuel i : Nat) (s : WordLoop) : vtLoopWords (fuel + 1) i s =
    if i - vtZeros i s.g = 0 then (Machine.vtShift i s).2
    else vtLoopWords fuel (i - vtZeros i s.g) (Machine.vtCancel (i - vtZeros i s.g) (Machine.vtShift i s).2) := rfl

/-- From g even, i passes are enough for i divsteps, and from g odd one more (R84); more fuel than that changes
nothing. -/
theorem WordLoop.Tracks.vtLoopWords {fuel : Nat} (h : s.Tracks i t T) (hi : 0 < i) (hf : t.f % 2 = 1)
    (hfuel : i + t.g % 2 ≤ fuel) : ∃ s', s'.Tracks 0 (divsteps i t) (divstepMatrix i t T) ∧
      ∀ n, vtLoopWords (fuel + n) i s = s' := by
  induction fuel generalizing i s t T with
  | zero => omega
  | succ fuel ih =>
    have hle := vtZeros_le (g := s.g) h.bits
    have hpos := h.vtZeros_add_parity_pos hi
    have hshift := h.vtShift
    rw [vtShift_eq] at hshift
    have hrun := divsteps_add (vtZeros i s.g) (i - vtZeros i s.g) t
    have hmatrix := divstepMatrix_add (vtZeros i s.g) (i - vtZeros i s.g) t T
    rw [Nat.add_sub_cancel' hle] at hrun hmatrix
    simp only [Nat.add_right_comm fuel 1, vtLoopWords_succ]
    rw [hrun, hmatrix]
    by_cases hexit : i - vtZeros i s.g = 0
    · rw [hexit] at hshift ⊢
      exact ⟨_, hshift, fun n => if_pos rfl⟩
    · have hleft : 0 < i - vtZeros i s.g := Nat.pos_of_ne_zero hexit
      obtain ⟨t', T', hcancel, hf', heven, hsame⟩ :=
        hshift.vtCancel hleft (divsteps_f_odd _ hf) (h.vtShift_g_odd (by omega))
      obtain ⟨s', hs', hloop⟩ := ih hcancel hleft hf' (by omega)
      rw [← hsame.triple, ← hsame.matrix]
      exact ⟨s', hs', fun n => by rw [if_neg hexit]; exact hloop n⟩

end Pass

/-- Settles O40: 63 passes are enough for the 62 divsteps. -/
theorem vtProcedureComputesDivsteps62 : Obligations.VtProcedureComputesDivsteps62 := by
  intro eta f0 g0 hodd hlo hhi
  obtain ⟨s', hs', hloop⟩ := (tracks_start (f0 := f0) (g0 := g0) hlo hhi).vtLoopWords (fuel := 63) (by decide)
    (by rw [wordTriple_f]; omega) (by rw [stepsPerMatrix]; omega)
  have hproc : vtProcedure eta f0 g0 = s' := hloop 0
  rw [hproc]
  obtain ⟨heta, hT⟩ := hs'.result
  exact ⟨heta, hT, hloop⟩

end Sys2Proof.Machine
end

section
/-! SUPPORT. One row of a matrix update on exact integers (42_matrix_update.md R86, R92): how large a row of a matrix
within bounds makes its combination of the operands, and when shifting the row's sum out divides it exactly. -/

namespace Sys2Proof.Machine

theorem radix_eq : radix = 2 ^ 62 := by norm_num [radix]

/-! ### A row within bounds -/

/-- A row (a, b) of a matrix within bounds (R87 check 2, R93 check 1). -/
abbrev RowBounded (a b : Int) : Prop := (a.natAbs : Int) + b.natAbs ≤ radix

section RowBounded
variable {a b : Int} (hrow : RowBounded a b)
include hrow

/-- A row within bounds combines two operands of size at most B to at most 2^62·B. -/
theorem RowBounded.abs_combination_le {x y B : Int} (hx : |x| ≤ B) (hy : |y| ≤ B) : |a * x + b * y| ≤ radix * B := by
  simp only [RowBounded, Int.natCast_natAbs] at hrow
  calc |a * x + b * y| ≤ |a| * |x| + |b| * |y| := by simpa only [abs_mul] using abs_add_le (a * x) (b * y)
    _ ≤ |a| * B + |b| * B := by gcongr
    _ = (|a| + |b|) * B := by ring
    _ ≤ radix * B := mul_le_mul_of_nonneg_right hrow ((abs_nonneg x).trans hx)

theorem RowBounded.abs_left_le : |a| ≤ radix := by
  simp only [RowBounded, Int.natCast_natAbs] at hrow
  linarith [abs_nonneg b]

theorem RowBounded.abs_right_le : |b| ≤ radix := by
  simp only [RowBounded, Int.natCast_natAbs] at hrow
  linarith [abs_nonneg a]

end RowBounded

/-- Limbs in (−2^62, 2^62) hold a value of less than 310 bits (R95). -/
theorem LimbsBounded.abs_value_lt {V : Limbs} (hV : LimbsBounded V) : |value V| < 2 ^ 310 := by
  obtain ⟨h0, h1, h2, h3, h4⟩ := hV
  rw [value_eq_sum, abs_lt]
  simp only [LimbBounded, radix] at *
  omega

/-- Modulo 2^62 a register's value is the pattern in its limb 0. -/
theorem value_emod_two_pow (V : Limbs) : value V % 2 ^ 62 = (V.v0.toNat : Int) % 2 ^ 62 := by
  have hlow : V.v0.toInt % 2 ^ 64 = (V.v0.toNat : Int) % 2 ^ 64 := by
    rw [BitVec.toInt_eq_toNat_bmod]
    exact Int.bmod_emod
  rw [value_eq_sum]
  omega

/-! ### Shifting the sum out -/

/-- The last carry is the quotient of the result by 2^248 (R89). -/
theorem shiftOut_top_bounds (t : IntLimbs) : (shiftOut t).v4 * 2 ^ 248 ≤ (shiftOut t).total ∧
    (shiftOut t).total < ((shiftOut t).v4 + 1) * 2 ^ 248 := by
  obtain ⟨h0, h1, h2, h3⟩ := shiftOut_digits t
  simp only [IntLimbs.total, LimbDigit, radix] at *
  omega

/-- A row's sum that the shift by 62 divides exactly, with a quotient that five limbs hold. -/
structure IntLimbs.ShiftsExactly (t : IntLimbs) : Prop where
  low : low62 t.v0 = 0
  lower : -2 ^ 311 * radix ≤ t.total
  upper : t.total < 2 ^ 311 * radix

section ShiftsExactly
variable {t : IntLimbs}

theorem shiftOut_total_mul_radix (hlow : low62 t.v0 = 0) : (shiftOut t).total * radix = t.total := by
  rw [mul_comm, shiftOut_total, hlow, sub_zero]

/-- A register takes the shifted limbs unchanged: the last carry is in the signed 64-bit range (R89, R95). -/
theorem IntLimbs.ShiftsExactly.words_ints (h : t.ShiftsExactly) : (shiftOut t).words.ints = shiftOut t := by
  obtain ⟨hlow, hlower, hupper⟩ := h
  have htotal := shiftOut_total_mul_radix hlow
  have htop := shiftOut_top_bounds t
  have hcarry : FitsWord (shiftOut t).v4 := by
    simp only [FitsWord, radix] at *
    omega
  obtain ⟨h0, h1, h2, h3⟩ := shiftOut_digits t
  exact Machine.words_ints h0.fits h1.fits h2.fits h3.fits hcarry

theorem IntLimbs.ShiftsExactly.canonical_words (h : t.ShiftsExactly) : Canonical (shiftOut t).words := by
  have hdigits := shiftOut_digits t
  rwa [← h.words_ints] at hdigits

theorem IntLimbs.ShiftsExactly.value_words (h : t.ShiftsExactly) : value (shiftOut t).words * 2 ^ 62 = t.total := by
  rw [value, h.words_ints, ← radix_eq, shiftOut_total_mul_radix h.low]

end ShiftsExactly

end Sys2Proof.Machine
end

section
/-! SUPPORT. UPDATE_FG (42_matrix_update.md R91 to R94). -/

namespace Sys2Proof.Machine

theorem fgRow_total (a b : Int) (f g : IntLimbs) : (fgRow a b f g).total = a * f.total + b * g.total := by
  rw [fgRow, combine_total]
  simp

/-- The low-limb check looks at the combination of the two low limbs (R92). -/
theorem low62_fgRow (a b : Int) (f g : Limbs) :
    low62 (fgRow a b f.ints g.ints).v0 = (a * f.v0.toInt + b * g.v0.toInt) % 2 ^ 62 := by
  simp [low62, fgRow, combine, Limbs.ints, radix_eq]

theorem fgRow_shiftsExactly {a b : Int} {f g : Limbs} (hrow : RowBounded a b) (hf : LimbsBounded f)
    (hg : LimbsBounded g) (hlow : (a * f.v0.toInt + b * g.v0.toInt) % 2 ^ 62 = 0) :
    (fgRow a b f.ints g.ints).ShiftsExactly := by
  have hsum := abs_le.1 (hrow.abs_combination_le hf.abs_value_lt.le hg.abs_value_lt.le)
  rw [value, value, ← fgRow_total] at hsum
  refine ⟨by rw [low62_fgRow, hlow], ?_, ?_⟩ <;>
  · simp only [radix] at *
    omega

/-- UPDATE_FG with its checks passed (R92). -/
theorem updateFgRule_of_checks {r : Regs} (hT : TBoundOk r.matrix) (hdet : r.matrix.det = radix)
    (hf : LimbsBounded r.f) (hg : LimbsBounded r.g)
    (hF : (fgRow r.matrix.u r.matrix.v r.f.ints r.g.ints).ShiftsExactly)
    (hG : (fgRow r.matrix.q r.matrix.r r.f.ints r.g.ints).ShiftsExactly) : updateFgRule r = .ok { r with
      f := (shiftOut (fgRow r.matrix.u r.matrix.v r.f.ints r.g.ints)).words
      g := (shiftOut (fgRow r.matrix.q r.matrix.r r.f.ints r.g.ints)).words } := by
  rw [updateFgRule_eq, if_pos hT, if_pos hdet, if_pos ⟨hf, hg⟩, if_pos ⟨hF.low, hG.low⟩]

/-- Settles O47: each row's sum has low limb 0, so shifting it out divides it exactly; the divsteps on the whole values
are R78 item 4. -/
theorem updateFgResult : Obligations.UpdateFgResult := by
  intro s hT hdet hf hg T hlowF hlowG
  obtain ⟨hrowF, hrowG⟩ := hT
  have hF := fgRow_shiftsExactly hrowF hf hg hlowF
  have hG := fgRow_shiftsExactly hrowG hf hg hlowG
  have hrule := updateFgRule_of_checks ⟨hrowF, hrowG⟩ (hdet.trans radix_eq.symm) hf hg hF hG
  have hvalueF := hF.value_words.trans (fgRow_total _ _ _ _)
  have hvalueG := hG.value_words.trans (fgRow_total _ _ _ _)
  refine ⟨_, exec_of_rule_ok (i := .updateFg) hrule, rfl, hvalueF, hvalueG, hF.canonical_words, hG.canonical_words,
    fun eta hodd hmatrix => ?_⟩
  obtain ⟨-, -, -, hcarries, -⟩ := divsteps62Properties eta s.regs.f.v0 s.regs.g.v0 hodd
  obtain ⟨-, hdivF, hdivG⟩ := hcarries _ _ (value_emod_two_pow s.regs.f) (value_emod_two_pow s.regs.g)
  rw [hmatrix, mul_comm] at hdivF hdivG
  exact ⟨mul_right_cancel₀ (by norm_num) (hdivF.trans hvalueF.symm),
    mul_right_cancel₀ (by norm_num) (hdivG.trans hvalueG.symm)⟩

/-- Settles O48: the rule's checks stand in the order of R93. -/
theorem updateFgChecks : Obligations.UpdateFgChecks := by
  intro s T ok1 ok2 ok3 ok4 fails
  have hdet : T.det = radix ↔ ok2 := by rw [radix_eq]
  have hlow : low62 (fgRow T.u T.v s.regs.f.ints s.regs.g.ints).v0 = 0 ∧
      low62 (fgRow T.q T.r s.regs.f.ints s.regs.g.ints).v0 = 0 ↔ ok4 := by rw [low62_fgRow, low62_fgRow]
  refine ⟨fun h1 => exec_of_rule_error ?_, fun h1 h2 => exec_of_rule_error ?_,
    fun h1 h2 h3 => exec_of_rule_error ?_, fun h1 h2 h3 h4 => exec_of_rule_error ?_⟩ <;>
    rw [ruleOf, updateFgRule_eq]
  · rw [if_neg h1]
  · rw [if_pos h1, if_neg (hdet.not.2 h2)]
  · rw [if_pos h1, if_pos (hdet.2 h2), if_neg h3]
  · rw [if_pos h1, if_pos (hdet.2 h2), if_pos h3, if_neg (hlow.not.2 h4)]

end Sys2Proof.Machine
end

section
/-! SUPPORT. UPDATE_DE (42_matrix_update.md R85 to R89). -/

namespace Sys2Proof.Machine

theorem deRow_total (a b : Int) (d e m : IntLimbs) (inv : Int) :
    (deRow a b d e m inv).total = a * d.total + b * e.total + m.total * correction a b d e inv :=
  combine_total ..

/-- The correction makes limb 0 divisible by 2^62: MODINV62 inverts the low limb of M (R87, check 5). -/
theorem low62_deRow {m : Limbs} {inv : Word} (hm : ModinfoValid m inv) (a b : Int) (d e : IntLimbs) :
    low62 (deRow a b d e m.ints inv.toNat).v0 = 0 := by
  obtain ⟨⟨⟨⟨hdigit, -⟩, -⟩, -⟩, -, -, -, hmodinv⟩ := hm
  set cd := a * d.v0 + b * e.v0
  set md := correctionStart a b d e
  have hsigned : m.v0.toInt = m.v0.toNat := BitVec.toInt_eq_toNat_of_lt (by
    have := BitVec.toInt_eq_toNat_cond m.v0
    split at this <;> omega)
  have hinv : m.v0.toInt * inv.toNat ≡ 1 [ZMOD radix] := by
    rw [hsigned, mul_comm]
    exact hmodinv
  have hk : low62 (inv.toNat * cd + md) ≡ inv.toNat * cd + md [ZMOD radix] := Int.mod_modEq _ _
  have hzero : cd + m.v0.toInt * (md - low62 (inv.toNat * cd + md)) ≡ 0 [ZMOD radix] :=
    calc cd + m.v0.toInt * (md - low62 (inv.toNat * cd + md))
        ≡ cd + m.v0.toInt * (md - (inv.toNat * cd + md)) [ZMOD radix] := ((hk.sub_left md).mul_left _).add_left cd
      _ = cd - m.v0.toInt * inv.toNat * cd := by ring
      _ ≡ cd - 1 * cd [ZMOD radix] := (hinv.mul_right cd).sub_left cd
      _ = 0 := by ring
  exact hzero

/-- Step 2 of R86 adds the row's entries of the negative operands. -/
theorem correctionStart_eq (a b : Int) (d e : IntLimbs) :
    correctionStart a b d e = (if d.v4 < 0 then a else 0) + if e.v4 < 0 then b else 0 := by
  rw [correctionStart, andMask_signMask, andMask_signMask]

/-- Step 4 of R86 subtracts a digit. -/
theorem exists_correction_eq (a b : Int) (d e : IntLimbs) (inv : Int) :
    ∃ k, LimbDigit k ∧ correction a b d e inv = correctionStart a b d e - k :=
  ⟨_, ⟨Int.emod_nonneg _ (by decide), Int.emod_lt_of_pos _ (by decide)⟩, rfl⟩

/-- Step 2 absorbs the negativity of the operands: a row's sum is that of the operands with the modulus added to the
negative ones, less a multiple k·M with k a digit (R88). -/
theorem exists_deRow_total_eq (a b : Int) (d e m : IntLimbs) (inv : Int) :
    ∃ k, LimbDigit k ∧ (deRow a b d e m inv).total =
      a * (addIfNegative d m).total + b * (addIfNegative e m).total - m.total * k := by
  obtain ⟨k, hk, hcorrection⟩ := exists_correction_eq a b d e inv
  refine ⟨k, hk, ?_⟩
  rw [deRow_total, hcorrection, correctionStart_eq, addIfNegative_total, addIfNegative_total]
  by_cases hd : d.v4 < 0 <;> by_cases he : e.v4 < 0 <;> simp only [hd, he, if_true, if_false] <;> ring

section Row
variable {a b : Int} (hrow : RowBounded a b)
include hrow

theorem correctionStart_bounds (d e : IntLimbs) :
    -radix ≤ correctionStart a b d e ∧ correctionStart a b d e ≤ radix := by
  rw [correctionStart_eq]
  simp only [RowBounded] at hrow
  split_ifs <;> omega

theorem correction_bounds (d e : IntLimbs) (inv : Int) :
    -2 ^ 63 + 1 ≤ correction a b d e inv ∧ correction a b d e inv ≤ 2 ^ 62 := by
  have hstart := correctionStart_bounds hrow d e
  obtain ⟨k, hk, hcorrection⟩ := exists_correction_eq a b d e inv
  simp only [LimbDigit, radix] at *
  omega

end Row

/-- An operand with the modulus added when it is negative is in (−M, M) (R88). -/
theorem ResidueOk.abs_addIfNegative_le {V m : Limbs} {inv : Word} (hV : ResidueOk V m) (hm : ModinfoValid m inv) :
    |(addIfNegative V.ints m.ints).total| ≤ value m - 1 := by
  obtain ⟨-, hpos, -⟩ := hm
  obtain ⟨-, hlo, hhi, hsign⟩ := hV
  rw [hsign.addIfNegative_total m, abs_le]
  split_ifs <;> omega

section Checked
variable {a b : Int} {d e m : Limbs} {inv : Word} (hrow : RowBounded a b) (hm : ModinfoValid m inv)
  (hd : ResidueOk d m) (he : ResidueOk e m)

include hrow hm hd he

/-- The sum of a row is in (−2M·2^62, M·2^62) (R88). -/
theorem deRow_total_range : -2 * value m * radix < (deRow a b d.ints e.ints m.ints inv.toNat).total ∧
    (deRow a b d.ints e.ints m.ints inv.toNat).total < value m * radix := by
  obtain ⟨k, ⟨hk0, hk⟩, htotal⟩ := exists_deRow_total_eq a b d.ints e.ints m.ints inv.toNat
  have hsum := abs_le.1 (hrow.abs_combination_le (hd.abs_addIfNegative_le hm) (he.abs_addIfNegative_le hm))
  obtain ⟨-, hpos, -⟩ := hm
  have hmk0 : 0 ≤ value m * k := mul_nonneg hpos.le hk0
  have hmk : value m * k < value m * radix := mul_lt_mul_of_pos_left hk hpos
  have hradix : 0 < radix := by decide
  rw [htotal, ← value]
  constructor <;> linarith

theorem deRow_shiftsExactly : (deRow a b d.ints e.ints m.ints inv.toNat).ShiftsExactly := by
  have hrange := deRow_total_range hrow hm hd he
  have hlow := low62_deRow hm a b d.ints e.ints
  obtain ⟨-, -, hlt, -⟩ := hm
  refine ⟨hlow, ?_, ?_⟩ <;>
  · simp only [radix, modulusBound] at *
    omega

/-- The result of a row is in (−2M, M) (R88). -/
theorem shiftOut_deRow_range : -2 * value m < (shiftOut (deRow a b d.ints e.ints m.ints inv.toNat)).total ∧
    (shiftOut (deRow a b d.ints e.ints m.ints inv.toNat)).total < value m := by
  have hrange := deRow_total_range hrow hm hd he
  rw [← shiftOut_total_mul_radix (low62_deRow hm a b d.ints e.ints)] at hrange
  have hpos : 0 < radix := by decide
  exact ⟨lt_of_mul_lt_mul_right hrange.1 hpos.le, lt_of_mul_lt_mul_right hrange.2 hpos.le⟩

end Checked

/-- UPDATE_DE with its checks passed (R86): check 5 needs none of its own. -/
theorem updateDeRule_of_checks {r : Regs} (hm : ModinfoValid r.mod r.modinv62) (hT : TBoundOk r.matrix)
    (hdet : r.matrix.det = radix) (hd : ResidueOk r.d r.mod) (he : ResidueOk r.e r.mod) :
    updateDeRule r = .ok { r with
      d := (shiftOut (deRow r.matrix.u r.matrix.v r.d.ints r.e.ints r.mod.ints r.modinv62.toNat)).words
      e := (shiftOut (deRow r.matrix.q r.matrix.r r.d.ints r.e.ints r.mod.ints r.modinv62.toNat)).words } := by
  rw [updateDeRule, updateDeWith_eq, if_pos hm, if_pos hT, if_pos hdet, if_pos ⟨hd, he⟩,
    if_pos ⟨low62_deRow hm _ _ _ _, low62_deRow hm _ _ _ _⟩]

/-- Settles O44: each row's sum is the combination of the operands plus M times the correction, and shifting it out
divides it exactly. -/
theorem updateDeResult : Obligations.UpdateDeResult := by
  intro s hm hT hdet hd he T md me
  obtain ⟨hrowD, hrowE⟩ := hT
  have hD := deRow_shiftsExactly hrowD hm hd he
  have hE := deRow_shiftsExactly hrowE hm hd he
  have hrule := updateDeRule_of_checks hm ⟨hrowD, hrowE⟩ (hdet.trans radix_eq.symm) hd he
  have hvalueD := hD.value_words.trans (deRow_total ..)
  have hvalueE := hE.value_words.trans (deRow_total ..)
  have hrangeD := shiftOut_deRow_range hrowD hm hd he
  have hrangeE := shiftOut_deRow_range hrowE hm hd he
  rw [← hD.words_ints] at hrangeD
  rw [← hE.words_ints] at hrangeE
  refine ⟨_, exec_of_rule_ok (i := .updateDe) hrule, rfl, ⟨hvalueD, hvalueE⟩, ⟨?_, ?_⟩,
    ⟨hrangeD.1, hrangeD.2, hrangeE.1, hrangeE.2⟩, hD.canonical_words, hE.canonical_words⟩
  · exact (congrArg (· % value s.regs.mod) hvalueD).trans (Int.add_mul_emod_self_left ..)
  · exact (congrArg (· % value s.regs.mod) hvalueE).trans (Int.add_mul_emod_self_left ..)

/-- Settles O45: the rule's checks stand in the order of R87, and the correction makes the last one pass. -/
theorem updateDeChecks : Obligations.UpdateDeChecks := by
  intro s ok1 ok2 ok3 ok4 fails
  have hdet : s.regs.matrix.det = radix ↔ ok3 := by rw [radix_eq]
  refine ⟨fun h1 => exec_of_rule_error ?_, fun h1 h2 => exec_of_rule_error ?_,
    fun h1 h2 h3 => exec_of_rule_error ?_, fun h1 h2 h3 h4 => exec_of_rule_error ?_,
    fun h1 a b => low62_deRow h1 a b _ _⟩ <;>
    rw [ruleOf, updateDeRule, updateDeWith_eq]
  · rw [if_neg h1]
  · rw [if_pos h1, if_neg h2]
  · rw [if_pos h1, if_pos h2, if_neg (hdet.not.2 h3)]
  · rw [if_pos h1, if_pos h2, if_pos (hdet.2 h3), if_neg h4]

/-! ### The accumulators -/

/-- A limb of a row's sum with its products in the ranges of R89 (c is the correction). -/
structure RowLimbOk (a b c d e m : Int) : Prop where
  products : (a * d).natAbs < 2 ^ 124 ∧ (b * e).natAbs < 2 ^ 124 ∧ (m * c).natAbs < 2 ^ 125
  sum : |a * d + b * e + m * c| ≤ 2 ^ 124 + 2 ^ 125

/-- Products of limbs in (−2^62, 2^62) with a row within bounds and with its correction (R89). -/
theorem rowLimbOk {a b c d e m : Int} (hrow : RowBounded a b) (hc : -2 ^ 63 + 1 ≤ c ∧ c ≤ 2 ^ 62)
    (hd : LimbBounded d) (he : LimbBounded e) (hm : LimbBounded m) : RowLimbOk a b c d e m := by
  have habs {x : Int} (hx : LimbBounded x) : |x| ≤ 2 ^ 62 - 1 := by
    simp only [LimbBounded, radix, abs_le] at *
    omega
  have hcabs : |c| ≤ 2 ^ 63 := abs_le.2 (by omega)
  have ha := hrow.abs_left_le
  have hb := hrow.abs_right_le
  have hsum := hrow.abs_combination_le (habs hd) (habs he)
  rw [radix_eq] at *
  have had : |a * d| ≤ 2 ^ 62 * (2 ^ 62 - 1) := by rw [abs_mul]; gcongr; exact habs hd
  have hbe : |b * e| ≤ 2 ^ 62 * (2 ^ 62 - 1) := by rw [abs_mul]; gcongr; exact habs he
  have hmc : |m * c| ≤ (2 ^ 62 - 1) * 2 ^ 63 := by rw [abs_mul]; gcongr; exact habs hm
  have hlt {x : Int} {n : Nat} (hx : |x| < n) : x.natAbs < n := by
    rw [Int.abs_eq_natAbs] at hx
    exact_mod_cast hx
  refine ⟨⟨hlt ?_, hlt ?_, hlt ?_⟩, (abs_add_le _ _).trans ?_⟩ <;> omega

/-- An accumulator of R89, below 2^126 in magnitude. -/
abbrev Accumulates (n : Int) : Prop := -2 ^ 126 < n ∧ n < 2 ^ 126

section RowLimbOk
variable {a b c d e m : Int} (h : RowLimbOk a b c d e m)
include h

theorem RowLimbOk.accumulates : Accumulates (a * d + b * e + m * c) := by
  have hsum := abs_le.1 h.sum
  omega

/-- The incoming carry is at most 2^64 in magnitude. -/
theorem RowLimbOk.accumulates_carry {n : Int} (hn : Accumulates n) :
    Accumulates (a * d + b * e + m * c + sar62 n) := by
  have hsum := abs_le.1 h.sum
  simp only [Accumulates, sar62, radix] at *
  omega

end RowLimbOk

/-- The last carry of a row is the top limb of a value in (−2M, M) (R89). -/
theorem shiftOut_deRow_top {a b : Int} {d e m : Limbs} {inv : Word} (hrow : RowBounded a b) (hm : ModinfoValid m inv)
    (hd : ResidueOk d m) (he : ResidueOk e m) :
    -2 ^ 9 ≤ (shiftOut (deRow a b d.ints e.ints m.ints inv.toNat)).v4 ∧
      (shiftOut (deRow a b d.ints e.ints m.ints inv.toNat)).v4 < 2 ^ 8 := by
  have hrange := shiftOut_deRow_range hrow hm hd he
  have htop := shiftOut_top_bounds (deRow a b d.ints e.ints m.ints inv.toNat)
  obtain ⟨-, -, hlt, -⟩ := hm
  simp only [modulusBound] at hlt
  omega

/-- Settles O46: every limb of the sum is at most 2^124 + 2^125 in magnitude, which leaves room for a carry. -/
theorem updateDeStaysInAccumulator : Obligations.UpdateDeStaysInAccumulator := by
  intro D E M inv a b hm hd he hrow md0 md row c0 c1 c2 c3 c4 small products
  have hrow : RowBounded a b := hrow.trans_eq radix_eq.symm
  have hmd := correction_bounds hrow D.ints E.ints inv.toNat
  have htop := shiftOut_deRow_top hrow hm hd he
  obtain ⟨m0, m1, m2, m3, m4⟩ := hm.limbsBounded
  obtain ⟨⟨d0, d1, d2, d3, d4⟩, -⟩ := hd
  obtain ⟨⟨e0, e1, e2, e3, e4⟩, -⟩ := he
  have limb0 := rowLimbOk hrow hmd d0 e0 m0
  have limb1 := rowLimbOk hrow hmd d1 e1 m1
  have limb2 := rowLimbOk hrow hmd d2 e2 m2
  have limb3 := rowLimbOk hrow hmd d3 e3 m3
  have limb4 := rowLimbOk hrow hmd d4 e4 m4
  have acc0 := limb0.accumulates
  have acc1 := limb1.accumulates_carry acc0
  have acc2 := limb2.accumulates_carry acc1
  have acc3 := limb3.accumulates_carry acc2
  have acc4 := limb4.accumulates_carry acc3
  have hstart := correctionStart_bounds hrow D.ints E.ints
  rw [radix_eq] at hstart
  exact ⟨hstart, hmd, limb0.products, limb1.products, limb2.products, limb3.products, limb4.products,
    acc0, acc1, acc2, acc3, acc4, htop⟩

end Sys2Proof.Machine
end

section
/-! SUPPORT. What the statements about a command say of its rule. -/

namespace Sys2Proof.Machine

/-- A command that completes with some registers has a rule that answers them: free destinations advance the draws,
and so does a fault (R65, R113, R114). -/
theorem ruleOf_of_completedWith {i : Instr} {s t : State} {r : Regs} (h : exec i s = .next t)
    (hdone : State.CompletedWith r s t) : ruleOf s.status.checks i s.regs = .ok r := by
  rw [exec_eq_conclude] at h
  cases h
  have hwrites : 0 < (writesOf i).length := by cases i <;> decide
  have hfaulted : 0 < faultedRegs.length := by decide
  have hregs : (s.conclude (writesOf i) (ruleOf s.status.checks i s.regs)).regs = r := congrArg State.regs hdone
  have hdraws : (s.conclude (writesOf i) (ruleOf s.status.checks i s.regs)).draws = s.draws :=
    (congrArg State.draws hdone).trans rfl
  obtain ⟨r', hr, hend⟩ | ⟨code, -, -, hend⟩ | ⟨code, -, -, hend⟩ :=
    conclude_cases (writesOf i) (ruleOf s.status.checks i s.regs) s <;> rw [hend] at hregs hdraws
  · rw [hr, ← hregs, finish_regs]
  · rw [raiseFault_draws] at hdraws
    omega
  · rw [finishUnspecified_draws] at hdraws
    omega

/-- An idle engine with the registers `r`. -/
abbrev Regs.idleState (r : Regs) : State := { State.reset with regs := r }

/-- UPDATE_DE's rule on operands that pass its checks (R88). -/
theorem updateDeRule_result {r : Regs} (hm : ModinfoValid r.mod r.modinv62) (hT : TBoundOk r.matrix)
    (hdet : r.matrix.det = 2 ^ 62) (hd : ResidueOk r.d r.mod) (he : ResidueOk r.e r.mod) :
    ∃ d e cd ce, updateDeRule r = .ok { r with d := d, e := e } ∧
      value d * 2 ^ 62 = r.matrix.u * value r.d + r.matrix.v * value r.e + value r.mod * cd ∧
      value e * 2 ^ 62 = r.matrix.q * value r.d + r.matrix.r * value r.e + value r.mod * ce ∧
      (-2 * value r.mod < value d ∧ value d < value r.mod) ∧
      (-2 * value r.mod < value e ∧ value e < value r.mod) ∧ Canonical d ∧ Canonical e := by
  obtain ⟨t, ht, hdone, ⟨hvd, hve⟩, -, ⟨hd1, hd2, he1, he2⟩, hcd, hce⟩ :=
    updateDeResult r.idleState hm hT hdet hd he
  exact ⟨_, _, _, _, ruleOf_of_completedWith ht hdone, hvd, hve, ⟨hd1, hd2⟩, ⟨he1, he2⟩, hcd, hce⟩

/-- UPDATE_FG's rule on operands that pass its checks (R94). -/
theorem updateFgRule_result {r : Regs} (hT : TBoundOk r.matrix) (hdet : r.matrix.det = 2 ^ 62)
    (hf : LimbsBounded r.f) (hg : LimbsBounded r.g)
    (hlowF : (r.matrix.u * r.f.v0.toInt + r.matrix.v * r.g.v0.toInt) % 2 ^ 62 = 0)
    (hlowG : (r.matrix.q * r.f.v0.toInt + r.matrix.r * r.g.v0.toInt) % 2 ^ 62 = 0) :
    ∃ f g, updateFgRule r = .ok { r with f := f, g := g } ∧
      value f * 2 ^ 62 = r.matrix.u * value r.f + r.matrix.v * value r.g ∧
      value g * 2 ^ 62 = r.matrix.q * value r.f + r.matrix.r * value r.g ∧ Canonical f ∧ Canonical g := by
  obtain ⟨t, ht, hdone, hvf, hvg, hcf, hcg, -⟩ := updateFgResult r.idleState hT hdet hf hg hlowF hlowG
  exact ⟨_, _, ruleOf_of_completedWith ht hdone, hvf, hvg, hcf, hcg⟩

/-- NORMALIZE's rule on operands that pass its checks (R74). -/
theorem normalizeRule_result {r : Regs} (hm : ModinfoValid r.mod r.modinv62) (hd : ResidueOk r.d r.mod) :
    ∃ d, normalizeRule r = .ok { r with d := d } ∧
      value d = (if r.f.v4.toInt < 0 then -value r.d else value r.d) % value r.mod ∧
      Normalized d ∧ 0 ≤ value d ∧ value d < value r.mod := by
  obtain ⟨t, ht, hdone, hresult⟩ := normalizeResult r.idleState hm hd
  exact ⟨_, ruleOf_of_completedWith ht hdone, hresult⟩

end Sys2Proof.Machine
end

section
/-! SUPPORT. INIT and one driver iteration by hand (43_driver.md R98, R99). -/

namespace Sys2Proof.Machine

/-- INIT with its checks passed (R98). -/
theorem initRule_of_inputsOk {r : Regs} (hin : InputsOk r) : initRule r = .ok { r with
    d := Limbs.zero, e := Limbs.one, f := r.mod, g := r.x, eta := BitVec.ofInt 64 (-1), iter := 0 } := by
  obtain ⟨hinfo, hx⟩ := hin
  rw [initRule_eq, if_pos hinfo, if_pos hx]

/-- INIT answers only when its checks pass. -/
theorem inputsOk_of_initRule {r r' : Regs} (h : initRule r = .ok r') : InputsOk r := by
  rw [initRule_eq] at h
  split_ifs at h with hinfo hx
  exact ⟨hinfo, hx⟩

/-- Settles O35: the rule's checks stand in the order of R98. -/
theorem initResult : Obligations.InitResult := by
  refine ⟨decode_encode .init, fun s => ⟨fun hin => ⟨_, exec_of_rule_ok (initRule_of_inputsOk hin), rfl⟩,
    fun hinfo => exec_of_rule_error ?_, fun hinfo hx => exec_of_rule_error ?_⟩⟩ <;> rw [ruleOf, initRule_eq]
  · rw [if_neg hinfo]
  · rw [if_pos hinfo, if_neg hx]

/-- Settles O49: the divstep command leaves D, E and MOD, so UPDATE_DE in the iteration is the command's rule. -/
theorem iterationIsThreeCommands : Obligations.IterationIsThreeCommands := by
  intro s r h hunit
  obtain ⟨r1, r2, r3, h1, h2, h3, rfl⟩ := iterateRule_eq_ok.1 h
  have hiter : r3.iter = s.regs.iter := by
    obtain ⟨res, rfl⟩ := divstepsRule_ok h1
    obtain ⟨d, e, rfl⟩ := updateDeWith_ok h2
    obtain ⟨f, g, rfl⟩ := updateFgRule_ok h3
    rfl
  have hunit1 : ¬UnitStart r1 := by
    obtain ⟨res, rfl⟩ := divstepsRule_ok h1
    exact hunit
  rw [updateDeDriver_eq hunit1] at h2
  refine ⟨by rw [hiter], _, _, _, exec_of_rule_ok (i := .divstepsCt) h1, exec_of_rule_ok (i := .updateDe) h2,
    exec_of_rule_ok (i := .updateFg) h3, ?_⟩
  rw [← hiter]
  rfl

end Sys2Proof.Machine
end

section
/-! SUPPORT. What divsteps keep of a driver's start (43_driver.md R103 item 4, R105): F in (−M, M] and G in (−M, M),
and the greatest common divisor of F and G. -/

namespace Sys2Proof.Machine

/-- F in (−M, M] and G in (−M, M) (R103 item 4). -/
structure DivTriple.Within (M : Int) (t : DivTriple) : Prop where
  f : -M < t.f ∧ t.f ≤ M
  g : -M < t.g ∧ t.g < M

section Triple
variable {M : Int} {t : DivTriple}

/-- The halved sum or difference is even, so halving keeps both bounds strict. -/
theorem DivTriple.Within.divstep (h : t.Within M) (hf : t.f % 2 = 1) : (divstep t).Within M := by
  obtain ⟨hF, hG⟩ := h
  obtain ⟨heta, hg⟩ | ⟨heta, hg⟩ | hg := t.cases
  · rw [divstep_of_swap heta hg]
    constructor <;> dsimp only <;> omega
  · rw [divstep_of_add heta hg]
    constructor <;> dsimp only <;> omega
  · rw [divstep_of_even hg]
    constructor <;> dsimp only <;> omega

theorem DivTriple.Within.divsteps (h : t.Within M) (hf : t.f % 2 = 1) (n : Nat) : (divsteps n t).Within M := by
  induction n generalizing t with
  | zero => exact h
  | succ n ih => exact ih (h.divstep hf) (divstep_f_odd hf)

/-- Halving an even number keeps its divisors in common with an odd one. -/
theorem gcd_half {a b : Int} (ha : a % 2 = 1) (hb : b % 2 = 0) : Int.gcd a (b / 2) = Int.gcd a b := by
  obtain ⟨c, rfl⟩ := Int.dvd_of_emod_eq_zero hb
  have hodd : Nat.Coprime 2 a.natAbs := (Nat.coprime_two_left).2 (Int.natAbs_odd.2 (Int.odd_iff.2 ha))
  rw [Int.mul_ediv_cancel_left _ two_ne_zero, Int.gcd, Int.gcd, Int.natAbs_mul]
  exact (hodd.gcd_mul_left_cancel_right _).symm

/-- "divsteps keep gcd(f, g)" (R105). -/
theorem divstep_gcd (hf : t.f % 2 = 1) : Int.gcd (divstep t).f (divstep t).g = Int.gcd t.f t.g := by
  obtain ⟨heta, hg⟩ | ⟨heta, hg⟩ | hg := t.cases
  · rw [divstep_of_swap heta hg]
    dsimp only
    rw [gcd_half hg (by omega), Int.gcd_self_sub_right, Int.gcd_comm]
  · rw [divstep_of_add heta hg]
    dsimp only
    rw [gcd_half hf (by omega), Int.gcd_add_self_right]
  · rw [divstep_of_even hg]
    exact gcd_half hf hg

theorem divsteps_gcd (hf : t.f % 2 = 1) (n : Nat) :
    Int.gcd (divsteps n t).f (divsteps n t).g = Int.gcd t.f t.g := by
  induction n generalizing t with
  | zero => rfl
  | succ n ih => rw [divsteps, ih (divstep_f_odd hf), divstep_gcd hf]

end Triple

end Sys2Proof.Machine
end

section
/-! SUPPORT. One driver iteration keeps the driver's invariant (43_driver.md R99, R103). -/

namespace Sys2Proof.Machine

/-! ### Registers and residues -/

/-- Modulo 2^62 a register's value is its limb 0. -/
theorem value_modEq_limb (V : Limbs) : value V ≡ V.v0.toInt [ZMOD 2 ^ 62] := by
  rw [value_eq_sum, Int.ModEq]
  omega

/-- A canonical vector in (−2M, M) is an operand of UPDATE_DE and NORMALIZE (R72, R87). -/
theorem Canonical.residueOk {V m : Limbs} {inv : Word} (hV : Canonical V) (hm : ModinfoValid m inv)
    (hrange : -2 * value m < value V ∧ value V < value m) : ResidueOk V m := by
  have hsign := hV.signConsistent
  have hbounds := hV.value_bounds
  obtain ⟨-, hpos, hlt, -⟩ := hm
  obtain ⟨h0, h1, h2, h3⟩ := hV
  have bounded {n : Int} (hn : LimbDigit n) : LimbBounded n := by
    simp only [LimbDigit, LimbBounded, radix] at *
    omega
  have htop : LimbBounded V.v4.toInt := by
    simp only [LimbBounded, radix, modulusBound] at *
    omega
  exact ⟨⟨bounded h0, bounded h1, bounded h2, bounded h3, htop⟩, hrange.1, hrange.2, hsign⟩

/-- Modulo an odd M a factor 2^62 can be cancelled (R88). -/
theorem dvd_of_dvd_two_pow_mul {M a : Int} (hM : M % 2 = 1) (h : M ∣ 2 ^ 62 * a) : M ∣ a := by
  have htwo : IsCoprime M 2 := ⟨1, -(M / 2), by omega⟩
  exact (htwo.pow_right (n := 62)).dvd_of_dvd_mul_left h

/-- A row (a, b) of T carries d·x ≡ f and e·x ≡ g on to its combinations divided by 2^62 (R103 item 1). -/
theorem relation_of_row {M x a b c d e f g d' f' : Int} (hM : M % 2 = 1) (hd : (d * x - f) % M = 0)
    (he : (e * x - g) % M = 0) (hd' : d' * 2 ^ 62 = a * d + b * e + M * c) (hf' : f' * 2 ^ 62 = a * f + b * g) :
    (d' * x - f') % M = 0 := by
  obtain ⟨p, hp⟩ := Int.dvd_of_emod_eq_zero hd
  obtain ⟨q, hq⟩ := Int.dvd_of_emod_eq_zero he
  have hsum : 2 ^ 62 * (d' * x - f') = M * (a * p + b * q + c * x) := by
    linear_combination x * hd' - hf' + a * hp + b * hq
  exact Int.emod_eq_zero_of_dvd (dvd_of_dvd_two_pow_mul hM ⟨_, hsum⟩)

/-- The low limbs combine to 0 modulo 2^62 when the values do (R93 check 4). -/
theorem low_of_row {a b f' : Int} {f g : Limbs} (h : f' * 2 ^ 62 = a * value f + b * value g) :
    (a * f.v0.toInt + b * g.v0.toInt) % 2 ^ 62 = 0 := by
  have hrow : a * value f + b * value g ≡ a * f.v0.toInt + b * g.v0.toInt [ZMOD 2 ^ 62] :=
    ((value_modEq_limb f).mul_left a).add ((value_modEq_limb g).mul_left b)
  rw [← hrow, ← h]
  exact Int.mul_emod_left _ _

/-! ### The matrix of an iteration -/

/-- The triple that a driver's registers hold (R103 item 2). -/
abbrev Regs.triple (r : Regs) : DivTriple := ⟨r.eta.toInt, value r.f, value r.g⟩

/-- The matrix of the 62 divsteps from there. -/
abbrev Regs.nextMatrix (r : Regs) : IntMatrix := divstepMatrix 62 r.triple IntMatrix.one

theorem nextMatrix_rowsAtMost (r : Regs) : r.nextMatrix.RowsAtMost (2 ^ 62) :=
  (show IntMatrix.one.RowsAtMost 1 by decide).divstepMatrix 62 r.triple

theorem IntMatrix.RowsAtMost.tBoundOk {T : IntMatrix} (hT : T.RowsAtMost (2 ^ 62)) : TBoundOk T := by
  obtain ⟨huv, hqr⟩ := hT
  simp only [TBoundOk, radix_eq]
  omega

theorem nextMatrix_det (r : Regs) : r.nextMatrix.det = 2 ^ 62 := by
  rw [Regs.nextMatrix, divstepMatrix_det]
  rfl

section Boundary
variable {r0 r : Regs} {k : Nat} (h : DriverInv r0 k r)
include h

/-- |η| grows by at most 1 a divstep (R104). -/
theorem DriverInv.eta_natAbs_le : r.eta.toInt.natAbs ≤ 62 * k + 1 := by
  have hk := divsteps_eta_natAbs_le (stepsPerMatrix * k) ⟨-1, value r0.mod, value r0.x⟩
  rw [h.triple] at hk
  simp only [stepsPerMatrix] at hk
  omega

theorem DriverInv.eta_range (hk : k < 12) {j : Nat} (hj : j ≤ 62) {t : DivTriple} (ht : t.eta = r.eta.toInt) :
    -745 ≤ (divsteps j t).eta ∧ (divsteps j t).eta ≤ 745 := by
  have hstart := h.eta_natAbs_le
  have hrun := divsteps_eta_natAbs_le j t
  rw [ht] at hrun
  omega

theorem DriverInv.f_limb_odd : r.f.v0.toNat % 2 = 1 := by
  have hodd := h.fOdd
  have hlow := value_emod_two_pow r.f
  omega

/-- Neither check of the divstep command fails, and it works on the low limbs as on the values (R78 item 4, R104). -/
theorem DriverInv.divstepsRule_eq (hk : k < 12) :
    divstepsRule r = .ok (r.setDivsteps ((divsteps 62 r.triple).eta, r.nextMatrix)) := by
  have hstays : etaStaysOk stepsPerMatrix (wordTriple r.eta r.f.v0 r.g.v0) = true :=
    etaStaysOk_iff.2 fun j hj => h.eta_range hk hj rfl
  have hagree : DivTriple.AgreeBits 62 r.triple (wordTriple r.eta r.f.v0 r.g.v0) :=
    ⟨rfl, value_emod_two_pow r.f, value_emod_two_pow r.g⟩
  rw [Machine.divstepsRule_eq, if_pos h.f_limb_odd, if_pos hstays, divsteps62_of_agreeBits hagree]

theorem DriverInv.triple_succ : divsteps (stepsPerMatrix * (k + 1)) ⟨-1, value r0.mod, value r0.x⟩ =
    divsteps 62 r.triple := by
  rw [Nat.mul_succ, divsteps_add, h.triple, stepsPerMatrix]

/-- The triple stays within the bounds of R103 item 4. -/
theorem DriverInv.within (n : Nat) : (divsteps n r.triple).Within (value r0.mod) :=
  DivTriple.Within.divsteps ⟨h.fRange, h.gRange⟩ h.fOdd n

variable (hin : InputsOk r0)
include hin

theorem DriverInv.modinfo : ModinfoValid r.mod r.modinv62 := by
  obtain ⟨hmod, hinv, -⟩ := h.inputs
  obtain ⟨hinfo, -⟩ := hin
  rwa [hmod, hinv]

theorem DriverInv.d_residueOk : ResidueOk r.d r.mod := by
  obtain ⟨hcd, -⟩ := h.canonical
  obtain ⟨hmod, -⟩ := h.inputs
  exact hcd.residueOk (h.modinfo hin) (by rw [hmod]; exact h.dRange)

theorem DriverInv.fg_limbsBounded : LimbsBounded r.f ∧ LimbsBounded r.g := by
  obtain ⟨⟨-, -, hlt, -⟩, -⟩ := hin
  obtain ⟨hf1, hf2⟩ := h.fRange
  obtain ⟨hg1, hg2⟩ := h.gRange
  obtain ⟨-, -, hf, hg⟩ := h.canonical
  exact ⟨hf.limbsBounded (by omega) (by omega), hg.limbsBounded (by omega) (by omega)⟩

end Boundary

/-! ### The iteration -/

/-- The driver's invariant at the boundary 0 (R98, R103). Under the modulus 1 the bound on e has the exception of log
18. -/
theorem driverInv_of_init {r0 r : Regs} (hin : InputsOk r0) (hr : initRule r0 = .ok r) : DriverInv r0 0 r := by
  obtain rfl := initRule_ok hr
  obtain ⟨⟨⟨hcm, -⟩, hpos, -, hodd, -⟩, hcx, hx1, hx2⟩ := hin
  have hzero : value Limbs.zero = 0 := by decide
  have hone : value Limbs.one = 1 := by decide
  have hcz : Canonical Limbs.zero := by decide
  have hco : Canonical Limbs.one := by decide
  exact {
    dRelation := by simp [hzero]
    eRelation := by simp [hone]
    fOdd := hodd
    triple := rfl
    dRange := by simp only [hzero]; omega
    eRange := by
      refine ⟨by simp only [hone]; omega, ?_⟩
      by_cases hM : value r0.mod = 1
      · exact .inr ⟨rfl, hM, rfl, rfl⟩
      · left
        simp only [hone]
        omega
    canonical := ⟨hcz, hco, hcm, hcx⟩
    fRange := by dsimp only; omega
    gRange := ⟨hx1, hx2⟩
    iter := rfl
    inputs := ⟨rfl, rfl, rfl⟩ }

/-- T applied to (d, e) modulo M and to (f, g) exactly, divided by 2^62 (R96). -/
structure Regs.Transformed (T : IntMatrix) (r r' : Regs) : Prop where
  d : ∃ c, value r'.d * 2 ^ 62 = T.u * value r.d + T.v * value r.e + value r.mod * c
  e : ∃ c, value r'.e * 2 ^ 62 = T.q * value r.d + T.r * value r.e + value r.mod * c
  f : value r'.f * 2 ^ 62 = T.u * value r.f + T.v * value r.g
  g : value r'.g * 2 ^ 62 = T.q * value r.f + T.r * value r.g
  dRange : -2 * value r.mod < value r'.d ∧ value r'.d < value r.mod
  eRange : -2 * value r.mod < value r'.e ∧ value r'.e < value r.mod
  canonical : Canonical r'.d ∧ Canonical r'.e ∧ Canonical r'.f ∧ Canonical r'.g
  x : r'.x = r.x

/-- An iteration on operands within their bounds, with the matrix T: (f', g') is what T leads (f, g) to. -/
theorem iterateRule_transformed {r : Regs} {eta : Int} {T : IntMatrix} {f' g' : Int}
    (hgen : divstepsRule r = .ok (r.setDivsteps (eta, T))) (heta : -745 ≤ eta ∧ eta ≤ 745)
    (hrows : T.RowsAtMost (2 ^ 62)) (hdet : T.det = 2 ^ 62) (hm : ModinfoValid r.mod r.modinv62)
    (hd : ResidueOk r.d r.mod) (he : ResidueOk r.e r.mod) (hfg : LimbsBounded r.f ∧ LimbsBounded r.g)
    (hF : f' * 2 ^ 62 = T.u * value r.f + T.v * value r.g) (hG : g' * 2 ^ 62 = T.q * value r.f + T.r * value r.g) :
    ∃ r', iterateRule divstepsRule r = .ok r' ∧ r'.eta.toInt = eta ∧ r.Transformed T r' := by
  obtain ⟨hf, hg⟩ := hfg
  obtain ⟨hnew, hT⟩ : (r.setDivsteps (eta, T)).eta.toInt = eta ∧ (r.setDivsteps (eta, T)).matrix = T :=
    setDivsteps_result r heta.1 heta.2 hrows
  have hbound : TBoundOk (r.setDivsteps (eta, T)).matrix := by rw [hT]; exact hrows.tBoundOk
  have hdet1 : (r.setDivsteps (eta, T)).matrix.det = 2 ^ 62 := by rw [hT, hdet]
  obtain ⟨d, e, cd, ce, hde, hvd, hve, hdRange, heRange, hcd, hce⟩ :=
    updateDeRule_result (r := r.setDivsteps (eta, T)) hm hbound hdet1 hd he
  rw [← hT] at hF hG
  obtain ⟨f, g, hfgRule, hvf, hvg, hcf, hcg⟩ := updateFgRule_result
    (r := { r.setDivsteps (eta, T) with d := d, e := e }) hbound hdet1 hf hg (low_of_row hF) (low_of_row hG)
  rw [← hT]
  exact ⟨_, iterateRule_eq_ok.2 ⟨_, _, _, hgen, updateDeDriver_of_rule hde, hfgRule, rfl⟩, hnew,
    ⟨⟨cd, hvd⟩, ⟨ce, hve⟩, hvf, hvg, hdRange, heRange, ⟨hcd, hce, hcf, hcg⟩, rfl⟩⟩

/-- T applied to all four carries every item of the invariant on (R103). -/
theorem DriverInv.of_transformed {r0 r r' : Regs} {k : Nat} (h : DriverInv r0 k r) (hin : InputsOk r0)
    (ht : r.Transformed r.nextMatrix r') (heta : r'.eta.toInt = (divsteps 62 r.triple).eta)
    (hadv : r.Advanced 1 r') : DriverInv r0 (k + 1) r' := by
  obtain ⟨hmod, hinv, hx⟩ := h.inputs
  obtain ⟨⟨-, -, -, hodd, -⟩, -⟩ := hin
  obtain ⟨⟨cd, hd⟩, ⟨ce, he⟩, hf, hg, hdRange, heRange, hcanonical, hx'⟩ := ht
  rw [hmod] at hd he hdRange heRange
  obtain ⟨hcarryF, hcarryG⟩ := divstepMatrix_one_carries 62 (t := r.triple) h.fOdd
  have hvf : value r'.f = (divsteps 62 r.triple).f := by linarith
  have hvg : value r'.g = (divsteps 62 r.triple).g := by linarith
  have hfOdd := divsteps_f_odd 62 (t := r.triple) h.fOdd
  obtain ⟨hfRange, hgRange⟩ := h.within 62
  rw [← hvf] at hfOdd hfRange
  rw [← hvg] at hgRange
  exact {
    dRelation := relation_of_row hodd h.dRelation h.eRelation hd hf
    eRelation := relation_of_row hodd h.dRelation h.eRelation he hg
    fOdd := hfOdd
    triple := by rw [h.triple_succ, heta, hvf, hvg]
    dRange := hdRange
    eRange := ⟨heRange.1, .inl heRange.2⟩
    canonical := hcanonical
    fRange := hfRange
    gRange := hgRange
    iter := by rw [hadv.iter, h.iter, BitVec.ofNat_add]
    inputs := ⟨hadv.mod.trans hmod, hadv.modinv62.trans hinv, hx'.trans hx⟩ }

/-- An iteration whose e is below M: no check of the three commands fails. -/
theorem DriverInv.iterate_of_e_lt {r0 r : Regs} {k : Nat} (h : DriverInv r0 k r) (hin : InputsOk r0) (hk : k < 12)
    (he : value r.e < value r0.mod) :
    ∃ r', iterateRule divstepsRule r = .ok r' ∧ DriverInv r0 (k + 1) r' := by
  obtain ⟨hmod, -, -⟩ := h.inputs
  obtain ⟨-, hce, -, -⟩ := h.canonical
  have heok : ResidueOk r.e r.mod := hce.residueOk (h.modinfo hin) (by rw [hmod]; exact ⟨h.eRange.1, he⟩)
  obtain ⟨hcarryF, hcarryG⟩ := divstepMatrix_one_carries 62 (t := r.triple) h.fOdd
  rw [mul_comm] at hcarryF hcarryG
  obtain ⟨r', hr, heta, ht⟩ := iterateRule_transformed (h.divstepsRule_eq hk) (h.eta_range hk le_rfl rfl)
    (nextMatrix_rowsAtMost r) (nextMatrix_det r) (h.modinfo hin) (h.d_residueOk hin) heok (h.fg_limbsBounded hin)
    hcarryF hcarryG
  exact ⟨r', hr, h.of_transformed hin ht heta (iterateRule_advanced hr)⟩

/-- INIT's pair under the modulus 1 (log 18): x and g are 0, and f is 1. -/
theorem DriverInv.unitBoundary {r0 r : Regs} (h : DriverInv r0 0 r) (hin : InputsOk r0) (hunit : UnitStart r) :
    UnitBoundary 0 r := by
  obtain ⟨hM, hd, he⟩ := hunit
  obtain ⟨hmod, -, hx⟩ := h.inputs
  rw [hmod] at hM
  obtain ⟨hmod1, hx0⟩ := mod_x_of_modulus_one hin hM
  obtain ⟨-, -, hcf, hcg⟩ := h.canonical
  have hf : value r.f = 1 := by have := h.fRange; have := h.fOdd; omega
  have hg : value r.g = 0 := by have := h.gRange; omega
  exact {
    modinfo := h.modinfo hin
    mod := hmod.trans hmod1
    x := hx.trans hx0
    d := hd
    e := .inr ⟨rfl, he⟩
    f := by rw [← hcf.canon_value, hf, canon_one]
    g := by rw [← hcg.canon_value, hg, canon_zero]
    eta := (congrArg DivTriple.eta h.triple).symm }

/-- The boundary 1 under the modulus 1: every relation modulo 1 holds. -/
theorem UnitBoundary.driverInv {r0 r r' : Regs} (hb : UnitBoundary 1 r') (hin : InputsOk r0)
    (hM : value r0.mod = 1) (h : DriverInv r0 0 r) (hadv : r.Advanced 1 r') : DriverInv r0 1 r' := by
  obtain ⟨hmod, hx⟩ := mod_x_of_modulus_one hin hM
  obtain ⟨-, hinv, -⟩ := h.inputs
  obtain ⟨hrx, hd, he, hf, hg⟩ := hb.result
  have hzero : value Limbs.zero = 0 := by decide
  have hone : value Limbs.one = 1 := by decide
  have hcz : Canonical Limbs.zero := by decide
  have hco : Canonical Limbs.one := by decide
  exact {
    dRelation := by rw [hM, Int.emod_one]
    eRelation := by rw [hM, Int.emod_one]
    fOdd := by rw [hf, hone]; rfl
    triple := by rw [hM, hx, hzero, divsteps_of_g_zero, hb.eta, hf, hone, hg, hzero]; rfl
    dRange := by rw [hM, hd, hzero]; decide
    eRange := by rw [hM, he, hzero]; exact ⟨by decide, .inl (by decide)⟩
    canonical := by rw [hd, he, hf, hg]; exact ⟨hcz, hcz, hco, hcz⟩
    fRange := by rw [hM, hf, hone]; decide
    gRange := by rw [hM, hg, hzero]; decide
    iter := by rw [hadv.iter, h.iter]; rfl
    inputs := ⟨hb.mod.trans hmod.symm, hadv.modinv62.trans hinv, hrx.trans hx.symm⟩ }

/-- An iteration leads from each boundary to the next (R103). -/
theorem DriverInv.iterate {r0 r : Regs} {k : Nat} (h : DriverInv r0 k r) (hin : InputsOk r0) (hk : k < 12) :
    ∃ r', iterateRule divstepsRule r = .ok r' ∧ DriverInv r0 (k + 1) r' := by
  obtain ⟨-, he | ⟨rfl, hunit⟩⟩ := h.eRange
  · exact h.iterate_of_e_lt hin hk he
  · obtain ⟨r', hr, hb⟩ := (h.unitBoundary hin hunit).iterate hk
    obtain ⟨hM, -⟩ := hunit
    obtain ⟨hmod, -⟩ := h.inputs
    exact ⟨r', hr, hb.driverInv hin (hmod ▸ hM) h (iterateRule_advanced hr)⟩

/-- Every boundary is reached (R103, R104). -/
theorem DriverInv.iterations {r0 r : Regs} (h : DriverInv r0 0 r) (hin : InputsOk r0) {k : Nat} (hk : k ≤ 12) :
    ∃ r', iterations divstepsRule k r = .ok r' ∧ DriverInv r0 k r' := by
  induction k with
  | zero => exact ⟨r, rfl, h⟩
  | succ k ih =>
    obtain ⟨r1, h1, hb⟩ := ih (by omega)
    obtain ⟨r2, h2, hb'⟩ := hb.iterate hin hk
    exact ⟨r2, by rw [iterations_succ_last, h1]; exact h2, hb'⟩

/-- Settles O50: both divstep commands have one rule, and each part of an iteration carries its part of the invariant
on. -/
theorem driverInvariants : Obligations.DriverInvariants := by
  intro r0 gen hin hgen
  obtain rfl : gen = divstepsRule := by rcases hgen with rfl | rfl <;> rfl
  have hinit := initRule_of_inputsOk hin
  have h0 := driverInv_of_init hin hinit
  refine ⟨⟨_, hinit, h0⟩, fun k r hk h => h.iterate hin hk, fun k hk => ?_⟩
  obtain ⟨r, hr, h⟩ := h0.iterations hin hk
  exact ⟨_, r, hinit, hr, h⟩

end Sys2Proof.Machine
end

section
/-! SUPPORT. The end of a driver from a boundary of its invariant (43_driver.md R100, R102, R104), and what both drivers
do with their iterations (R100, R101). -/

namespace Sys2Proof.Machine

/-! ### NORMALIZE at the end -/

/-- value(D) with the sign of F folded in, as `signedF` is value(F) (R100). -/
def foldedD (r : Regs) : Int := if r.f.v4.toInt < 0 then -value r.d else value r.d

section Boundary
variable {r0 r : Regs} {k : Nat} (h : DriverInv r0 k r)
include h

/-- F is canonical, so its top limb has its sign (R24). -/
theorem DriverInv.signedF_eq : signedF r = (value r.f).natAbs := by
  obtain ⟨-, -, hf, -⟩ := h.canonical
  have hsign := hf.signConsistent
  simp only [SignConsistent] at hsign
  unfold signedF
  split <;> omega

/-- Folding the sign of F in keeps the relation of R103 item 1. -/
theorem DriverInv.foldedD_relation : (foldedD r * value r0.x - signedF r) % value r0.mod = 0 := by
  have hd := h.dRelation
  unfold foldedD signedF
  split
  · rw [show -value r.d * value r0.x - -value r.f = -(value r.d * value r0.x - value r.f) by ring]
    exact Int.emod_eq_zero_of_dvd ((Int.dvd_of_emod_eq_zero hd).neg_right)
  · exact hd

theorem DriverInv.residue_relation {X : Int} (hX : X = foldedD r % value r0.mod) :
    (X * value r0.x - signedF r) % value r0.mod = 0 := by
  rw [← h.foldedD_relation, hX]
  exact ((Int.mod_modEq _ _).mul_right _).sub_right _

/-- Past FINAL_STATE no check of the end fails (R104). -/
theorem DriverInv.driverEnd_eq_ok (hin : InputsOk r0) {checks : Bool} (hfinal : checks = true → FinalOk r) :
    ∃ X, driverEnd checks r = .ok { r with d := X, x := X } ∧ value X = foldedD r % value r0.mod ∧
      Normalized X ∧ 0 ≤ value X ∧ value X < value r0.mod := by
  obtain ⟨X, hrule, hX⟩ := normalizeRule_result (h.modinfo hin) (h.d_residueOk hin)
  obtain ⟨hmod, -, -⟩ := h.inputs
  rw [hmod] at hX
  exact ⟨X, by rw [driverEnd_eq, if_pos hfinal, hrule], hX⟩

end Boundary

/-- FINAL_STATE stops a driver whose final state is not one of R102. -/
theorem driverEnd_of_not_final {checks : Bool} {r : Regs} (h : ¬(checks = true → FinalOk r)) :
    driverEnd checks r = .error .finalState := by
  rw [driverEnd_eq, if_neg h]

theorem final_of_driverEnd {checks : Bool} {r r' : Regs} (h : driverEnd checks r = .ok r') :
    checks = true → FinalOk r := by
  by_contra hfinal
  rw [driverEnd_of_not_final hfinal] at h
  cases h

/-! ### The iterations -/

/-- When INIT's checks pass, MODINV reaches its end at the boundary 12 (R100, R104). -/
theorem modinvRule_eq_driverEnd {r0 : Regs} (hin : InputsOk r0) :
    ∃ r1 r, initRule r0 = .ok r1 ∧ iterations divstepsRule 12 r1 = .ok r ∧ DriverInv r0 12 r ∧
      ∀ checks, modinvRule checks r0 = driverEnd checks r := by
  have hinit := initRule_of_inputsOk hin
  obtain ⟨r, hr, h⟩ := (driverInv_of_init hin hinit).iterations hin le_rfl
  refine ⟨_, r, hinit, hr, h, fun checks => ?_⟩
  rw [modinvRule, hinit, ok_bind]
  exact (congrArg (· >>= driverEnd checks) hr).trans (ok_bind r _)

theorem driverInv_of_iterations {r0 r1 r : Regs} (hin : InputsOk r0) (hinit : initRule r0 = .ok r1) {k : Nat}
    (hk : k ≤ 12) (hr : iterations divstepsRule k r1 = .ok r) : DriverInv r0 k r := by
  obtain ⟨r', hr', h⟩ := (driverInv_of_init hin hinit).iterations hin hk
  cases hr.symm.trans hr'
  exact h

/-- MODINV_VAR answers from the end of its loop, with G = 0 (R101). -/
theorem modinvVarRule_ok {checks : Bool} {r0 r' : Regs} (h : modinvVarRule checks r0 = .ok r') :
    ∃ r1 k r, initRule r0 = .ok r1 ∧ k ≤ 12 ∧ iterations divstepsRule k r1 = .ok r ∧ r.g = Limbs.zero ∧
      driverEnd checks r = .ok r' := by
  obtain ⟨r1, hinit, h⟩ := bind_eq_ok.1 h
  obtain ⟨r, hloop, hend⟩ := bind_eq_ok.1 h
  obtain ⟨k, -, hk, hr, hg⟩ := vtLoop_eq_ok hloop
  exact ⟨r1, k, r, hinit, hk, hr, hg, hend⟩

/-- A driver that answers had its inputs in range and came to its end from a boundary (R100, R101). -/
theorem boundary_of_driver {checks : Bool} {i : Instr} (hi : i = .modinv ∨ i = .modinvVar) {r0 r' : Regs}
    (h : ruleOf checks i r0 = .ok r') :
    InputsOk r0 ∧ ∃ k r, DriverInv r0 k r ∧ driverEnd checks r = .ok r' := by
  rcases hi with rfl | rfl
  · obtain ⟨r1, hinit, -⟩ := bind_eq_ok.1 h
    have hin := inputsOk_of_initRule hinit
    obtain ⟨-, r, -, -, hb, hrule⟩ := modinvRule_eq_driverEnd hin
    exact ⟨hin, 12, r, hb, (hrule checks).symm.trans h⟩
  · obtain ⟨r1, k, r, hinit, hk, hr, -, hend⟩ := modinvVarRule_ok h
    have hin := inputsOk_of_initRule hinit
    exact ⟨hin, k, r, driverInv_of_iterations hin hinit hk hr, hend⟩

/-- Settles O52: the twelfth boundary's relation with the sign of F folded in. -/
theorem modinvEndsForEveryInput : Obligations.ModinvEndsForEveryInput := by
  intro s hin
  obtain ⟨-, r, -, -, h, hrule⟩ := modinvRule_eq_driverEnd hin
  have hrule := hrule s.status.checks
  by_cases hfinal : s.status.checks = true → FinalOk r
  · obtain ⟨X, hend, hX, hnorm, hlo, hhi⟩ := h.driverEnd_eq_ok hin hfinal
    obtain ⟨hmod, hinv, -⟩ := h.inputs
    exact ⟨_, exec_of_rule_ok (i := .modinv) (hrule.trans hend),
      .inl ⟨rfl, h.iter, rfl, hnorm, hlo, hhi, h.residue_relation hX, hmod, hinv, rfl⟩⟩
  · obtain ⟨t, ht, hfaulted, -⟩ := exec_of_rule_error (i := .modinv) (hrule.trans (driverEnd_of_not_final hfinal))
    obtain ⟨hchecks, -⟩ := Classical.not_imp.1 hfinal
    exact ⟨t, ht, .inr ⟨hchecks, hfaulted hchecks⟩⟩

/-- With CHECK_INVARIANTS true a command that is done has a rule that answered (R112). -/
theorem rule_of_done {i : Instr} {s t : State} (hchecks : s.status.checks = true) (h : exec i s = .next t)
    (hdone : t.status.done = true) : ∃ r, ruleOf s.status.checks i s.regs = .ok r ∧ t = s.finish r := by
  rw [exec_eq_conclude] at h
  cases h
  obtain ⟨r, hr, hend⟩ | ⟨code, -, -, hend⟩ | ⟨code, -, hrelease, -⟩ :=
    conclude_cases (writesOf i) (ruleOf s.status.checks i s.regs) s
  · exact ⟨r, hr, hend⟩
  · simp [hend] at hdone
  · simp [hchecks] at hrelease

/-- What the result of a driver is in the final states of R102: an inverse, or 0 for x = 0, and so for every x in range
under the modulus 1 (R108 item 1). -/
theorem DriverInv.inverse_or_zero {r0 r : Regs} {k : Nat} (h : DriverInv r0 k r) (hin : InputsOk r0)
    (hfinal : FinalOk r) {X : Int} (hX : X = foldedD r % value r0.mod) (hlo : 0 ≤ X) (hhi : X < value r0.mod) :
    (X * value r0.x) % value r0.mod = 1 ∨ (value r0.x = 0 ∧ X = 0) := by
  obtain ⟨-, hunit | hzero⟩ : value r.g = 0 ∧ ((value r.f).natAbs = 1 ∨ (value r.x = 0 ∧ value r.d = 0)) := by
    obtain ⟨hg, hf | hf | ⟨hx, hd, -⟩⟩ := hfinal
    · exact ⟨hg, .inl (by omega)⟩
    · exact ⟨hg, .inl (by omega)⟩
    · exact ⟨hg, .inr ⟨hx, hd⟩⟩
  · have hrelation := h.residue_relation hX
    obtain ⟨-, -, hx1, hx2⟩ := hin
    rw [h.signedF_eq, hunit, Nat.cast_one, ← Int.emod_eq_emod_iff_emod_sub_eq_zero] at hrelation
    by_cases hM : value r0.mod = 1
    · exact .inr (by omega)
    · exact .inl (hrelation.trans (Int.emod_eq_of_lt one_pos.le (by omega)))
  · obtain ⟨hx, hd⟩ := hzero
    obtain ⟨-, -, hrx⟩ := h.inputs
    exact .inr ⟨hrx ▸ hx, by rw [hX, foldedD, hd, neg_zero, ite_self, Int.zero_emod]⟩

/-- Settles O58: a driver that is done came to its end from a boundary, in a final state of R102. -/
theorem checkedDriversReturnInverses : Obligations.CheckedDriversReturnInverses := by
  intro s t i hi hchecks hexec hdone
  obtain ⟨r', hrule, rfl⟩ := rule_of_done hchecks hexec hdone
  obtain ⟨hin, k, r, h, hend⟩ := boundary_of_driver hi hrule
  have hfinal := final_of_driverEnd hend
  obtain ⟨X, hX, hvalue, hnorm, hlo, hhi⟩ := h.driverEnd_eq_ok hin hfinal
  cases hend.symm.trans hX
  exact ⟨hin, hnorm, hlo, hhi, h.inverse_or_zero hin (hfinal hchecks) hvalue hlo hhi⟩

end Sys2Proof.Machine
end

section
/-! SUPPORT. The drivers when 744 divsteps suffice (43_driver.md R104; log 15): they halt with G = 0 and |F| = gcd(x, M),
and the result times x is that divisor modulo M (R105, R108). -/

namespace Sys2Proof.Machine

section Boundary
variable {r0 r : Regs} {k : Nat} (h : DriverInv r0 k r)
include h

/-- G is canonical, so it is 0 in all five limbs once the divsteps have reached g = 0 (R101). -/
theorem DriverInv.g_eq_zero (hg : (divsteps (stepsPerMatrix * k) ⟨-1, value r0.mod, value r0.x⟩).g = 0) :
    r.g = Limbs.zero := by
  obtain ⟨-, -, -, hcg⟩ := h.canonical
  have hvalue : value r.g = 0 := by rwa [h.triple] at hg
  rw [← hcg.canon_value, hvalue, canon_zero]

/-- "the driver ends with value(F) = ±g₀" (R105). -/
theorem DriverInv.f_natAbs_eq_gcd (hin : InputsOk r0) (hg : r.g = Limbs.zero) :
    (value r.f).natAbs = Int.gcd (value r0.x) (value r0.mod) := by
  obtain ⟨⟨-, -, -, hodd, -⟩, -⟩ := hin
  have hzero : value Limbs.zero = 0 := by decide
  have hgcd := divsteps_gcd (t := ⟨-1, value r0.mod, value r0.x⟩) hodd (stepsPerMatrix * k)
  rwa [h.triple, hg, hzero, Int.gcd_zero_right, Int.gcd_comm] at hgcd

end Boundary

/-- The VT loop leaves before its bound runs out when the last iteration ends with G = 0 (R101). -/
theorem vtLoop_of_iterations {n : Nat} {r r' : Regs} (hr : iterations divstepsVtRule (n + 1) r = .ok r')
    (hg : r'.g = Limbs.zero) : ∃ r'', vtLoop (n + 1) r = .ok r'' := by
  induction n generalizing r with
  | zero =>
    obtain ⟨r1, h1, h2⟩ := bind_eq_ok.1 hr
    cases h2
    exact ⟨r', bind_eq_ok.2 ⟨r', h1, if_pos hg⟩⟩
  | succ n ih =>
    obtain ⟨r1, h1, h2⟩ := bind_eq_ok.1 hr
    obtain ⟨r'', h''⟩ := ih h2
    by_cases hg1 : r1.g = Limbs.zero
    · exact ⟨r1, bind_eq_ok.2 ⟨r1, h1, if_pos hg1⟩⟩
    · exact ⟨r'', bind_eq_ok.2 ⟨r1, h1, (if_neg hg1).trans h''⟩⟩

/-- Both drivers come to their end with G = 0: MODINV at the boundary 12, MODINV_VAR at one from 1 to 12 (R104). -/
theorem driver_halts {i : Instr} (hi : i = .modinv ∨ i = .modinvVar) {r0 : Regs} (hin : InputsOk r0)
    (hsuff : DivstepsSuffice r0) : ∃ k r, (1 ≤ k ∧ k ≤ 12) ∧ (i = .modinv → k = 12) ∧ DriverInv r0 k r ∧
      r.g = Limbs.zero ∧ ∀ checks, ruleOf checks i r0 = driverEnd checks r := by
  obtain ⟨r1, r, hinit, hr, h, hrule⟩ := modinvRule_eq_driverEnd hin
  have hg : r.g = Limbs.zero := h.g_eq_zero hsuff
  rcases hi with rfl | rfl
  · exact ⟨12, r, ⟨by decide, le_rfl⟩, fun _ => rfl, h, hg, hrule⟩
  · obtain ⟨rv, hloop⟩ := vtLoop_of_iterations (n := 11) hr hg
    obtain ⟨k, hk1, hk, hrv, hgv⟩ := vtLoop_eq_ok hloop
    refine ⟨k, rv, ⟨hk1, hk⟩, nofun, driverInv_of_iterations hin hinit hk hrv, hgv, fun checks => ?_⟩
    rw [ruleOf, modinvVarRule, hinit, ok_bind]
    exact (congrArg (· >>= driverEnd checks) hloop).trans (ok_bind rv _)

/-- A driver that halts and passes FINAL_STATE: X times x is gcd(x, M) modulo M, as |F| is (R105). -/
theorem exec_of_halted {i : Instr} {s : State} {k : Nat} {r : Regs} (hin : InputsOk s.regs)
    (h : DriverInv s.regs k r) (hg : r.g = Limbs.zero)
    (hrule : ruleOf s.status.checks i s.regs = driverEnd s.status.checks r)
    (hfinal : s.status.checks = true → FinalOk r) :
    ∃ X, exec i s = .next (s.finish { r with d := X, x := X }) ∧ Normalized X ∧ 0 ≤ value X ∧
      value X < value s.regs.mod ∧
      (value X * value s.regs.x - Int.gcd (value s.regs.x) (value s.regs.mod)) % value s.regs.mod = 0 := by
  obtain ⟨X, hend, hX, hnorm, hlo, hhi⟩ := h.driverEnd_eq_ok hin hfinal
  have hrelation := h.residue_relation hX
  rw [h.signedF_eq, h.f_natAbs_eq_gcd hin hg] at hrelation
  exact ⟨X, exec_of_rule_ok (hrule.trans hend), hnorm, hlo, hhi, hrelation⟩

/-- Both drivers compute the inverse of an x coprime to M (R100, R101, R108). -/
theorem driver_inverts {i : Instr} (hi : i = .modinv ∨ i = .modinvVar) {s : State} (hin : InputsOk s.regs)
    (hsuff : DivstepsSuffice s.regs) (hgcd : Int.gcd (value s.regs.x) (value s.regs.mod) = 1) :
    ∃ t k, exec i s = .next t ∧ (1 ≤ k ∧ k ≤ 12) ∧ (i = .modinv → k = 12) ∧ t.regs.iter = BitVec.ofNat 64 k ∧
      t.status = { s.status with busy := false, done := true } ∧
      (value t.regs.x * value s.regs.x) % value s.regs.mod = 1 % value s.regs.mod ∧
      (Normalized t.regs.x ∧ 0 ≤ value t.regs.x ∧ value t.regs.x < value s.regs.mod) ∧
      t.regs.d = t.regs.x ∧ t.regs.g = Limbs.zero ∧ (value t.regs.f = 1 ∨ value t.regs.f = -1) ∧
      t.regs.mod = s.regs.mod ∧ t.regs.modinv62 = s.regs.modinv62 := by
  obtain ⟨k, r, hk, hct, h, hg, hrule⟩ := driver_halts hi hin hsuff
  have hf : value r.f = 1 ∨ value r.f = -1 := Int.natAbs_eq_iff.1 ((h.f_natAbs_eq_gcd hin hg).trans hgcd)
  have hfinal : FinalOk r := ⟨by rw [hg]; decide, hf.imp_right .inl⟩
  obtain ⟨X, hexec, hnorm, hlo, hhi, hrelation⟩ := exec_of_halted hin h hg (hrule _) fun _ => hfinal
  rw [hgcd, Nat.cast_one, ← Int.emod_eq_emod_iff_emod_sub_eq_zero] at hrelation
  obtain ⟨hmod, hinv, -⟩ := h.inputs
  exact ⟨_, k, hexec, hk, hct, h.iter, rfl, hrelation, ⟨hnorm, hlo, hhi⟩, rfl, hg, hf, hmod, hinv⟩

/-- Settles O53: MODINV halts at the boundary 12. -/
theorem modinvComputesTheInverse : Obligations.ModinvComputesTheInverse := by
  intro s hin hsuff hgcd
  obtain ⟨t, k, ht, -, hk, hiter, hstatus, hinverse, ⟨hnorm, hlo, hhi⟩, hd, hg, hf, hkept⟩ :=
    driver_inverts (.inl rfl) hin hsuff hgcd
  rw [hk rfl] at hiter
  exact ⟨t, ht, hstatus, hinverse, hnorm, hlo, hhi, hd, hg, hf, hiter, hkept⟩

/-- Settles O54: MODINV_VAR halts at a boundary from 1 to 12, the number of which is in ITER. -/
theorem modinvVarComputesTheInverse : Obligations.ModinvVarComputesTheInverse := by
  intro s hin hsuff hgcd
  obtain ⟨t, k, ht, ⟨hk1, hk2⟩, -, hiter, hstatus, hinverse, ⟨hnorm, hlo, hhi⟩, hd, hg, hf, hkept⟩ :=
    driver_inverts (.inr rfl) hin hsuff hgcd
  have hk : t.regs.iter.toNat = k := by
    rw [hiter, BitVec.toNat_ofNat]
    exact Nat.mod_eq_of_lt (by omega)
  exact ⟨t, ht, hstatus, hinverse, hnorm, hlo, hhi, hd, hg, hf, hk ▸ hk1, hk ▸ hk2, hkept⟩

/-- Settles O56: |F| is then neither 1 nor, with x ≠ 0, admitted by FINAL_STATE. -/
theorem compositeModulusResult : Obligations.CompositeModulusResult := by
  intro s i hi hin hsuff hx hgcd
  obtain ⟨k, r, -, -, h, hg, hrule⟩ := driver_halts hi hin hsuff
  have hf := h.f_natAbs_eq_gcd hin hg
  cases hchecks : s.status.checks
  · obtain ⟨X, hexec, -, hlo, hhi, hrelation⟩ := exec_of_halted (i := i) hin h hg (hrule _) (by simp [hchecks])
    exact ⟨_, hexec, nofun, fun _ => ⟨rfl, hlo, hhi, hrelation, hf⟩⟩
  · have hbad : ¬FinalOk r := by
      obtain ⟨-, -, hrx⟩ := h.inputs
      rintro ⟨-, h1 | h1 | ⟨h0, -⟩⟩
      · omega
      · omega
      · exact hx (hrx ▸ h0)
    obtain ⟨t, ht, hfaulted, -⟩ := exec_of_rule_error (i := i) (s := s)
      ((hrule _).trans (driverEnd_of_not_final fun hfinal => hbad (hfinal hchecks)))
    exact ⟨t, ht, fun _ => hfaulted hchecks, nofun⟩

end Sys2Proof.Machine
end

section
/-! SUPPORT. The iterations of a driver past G = 0 (43_driver.md R104, R106): T is (2^62, 0, 0, 1), F and G stay, and D
has the modulus added when it is negative. -/

namespace Sys2Proof.Machine

/-! ### UPDATE_DE with the matrix of g = 0 -/

/-- The correction of the D row is the one of a negative d only: the row is divisible by 2^62 already. -/
theorem correction_haltMatrix (d e : IntLimbs) (inv : Int) :
    correction haltMatrix.u haltMatrix.v d e inv = if d.v4 < 0 then radix else 0 := by
  have hmultiple {n : Int} (h : radix ∣ n) : low62 n = 0 := Int.emod_eq_zero_of_dvd h
  have hstart : correctionStart haltMatrix.u haltMatrix.v d e = if d.v4 < 0 then radix else 0 := by
    simp [correctionStart_eq, haltMatrix]
  have hlow : low62 (inv * (haltMatrix.u * d.v0 + haltMatrix.v * e.v0) + if d.v4 < 0 then radix else 0) = 0 := by
    split
    · exact hmultiple ⟨inv * d.v0 + 1, by simp only [haltMatrix]; ring⟩
    · exact hmultiple ⟨inv * d.v0, by simp only [haltMatrix]; ring⟩
  simp only [correction, hstart, hlow, sub_zero]

theorem deRow_haltMatrix_total (d e m : IntLimbs) (inv : Int) :
    (deRow haltMatrix.u haltMatrix.v d e m inv).total = (addIfNegative d m).total * radix := by
  rw [deRow_total, correction_haltMatrix, addIfNegative_total]
  simp only [haltMatrix]
  split <;> ring

/-- UPDATE_DE, whatever its check 4 is on E, adds the modulus to a negative D (R106). -/
theorem updateDeWith_haltMatrix {ok : Prop} [Decidable ok] {r r' : Regs} (hT : r.matrix = haltMatrix)
    (hm : ModinfoValid r.mod r.modinv62) (hd : ResidueOk r.d r.mod) (h : updateDeWith ok r = .ok r') :
    value r'.d = value r.d + if value r.d < 0 then value r.mod else 0 := by
  rw [updateDeWith_eq, hT] at h
  split_ifs at h
  cases h
  have hbound := abs_le.1 (hd.abs_addIfNegative_le hm)
  have htotal := deRow_haltMatrix_total r.d.ints r.e.ints r.mod.ints r.modinv62.toNat
  have hlow := low62_deRow hm haltMatrix.u haltMatrix.v r.d.ints r.e.ints
  obtain ⟨-, -, hlt, -⟩ := hm
  obtain ⟨-, -, -, hsign⟩ := hd
  have hexact : (deRow haltMatrix.u haltMatrix.v r.d.ints r.e.ints r.mod.ints r.modinv62.toNat).ShiftsExactly := by
    refine ⟨hlow, ?_, ?_⟩ <;>
    · simp only [htotal, radix, modulusBound] at *
      omega
  rw [← hsign.addIfNegative_total r.mod]
  exact mul_right_cancel₀ (by norm_num) (hexact.value_words.trans (radix_eq ▸ htotal))

/-! ### The iterations -/

/-- What iterations past G = 0 leave of the registers that the result of a driver depends on (R106). -/
structure Regs.CoastsTo (r r' : Regs) : Prop where
  f : r'.f = r.f
  g : r'.g = r.g
  x : r'.x = r.x
  mod : r'.mod = r.mod
  d : value r'.d ≡ value r.d [ZMOD value r.mod]
  dZero : value r.d = 0 → value r'.d = 0

theorem Regs.CoastsTo.refl (r : Regs) : r.CoastsTo r := ⟨rfl, rfl, rfl, rfl, .refl _, id⟩

theorem Regs.CoastsTo.trans {r r' r'' : Regs} (h : r.CoastsTo r') (h' : r'.CoastsTo r'') : r.CoastsTo r'' :=
  ⟨h'.f.trans h.f, h'.g.trans h.g, h'.x.trans h.x, h'.mod.trans h.mod, (h.mod ▸ h'.d).trans h.d,
    fun hd => h'.dZero (h.dZero hd)⟩

/-- The matrix registers hold (2^62, 0, 0, 1). -/
def Regs.HoldsHaltMatrix (r : Regs) : Prop := r.tu = 0x4000000000000000 ∧ r.tv = 0 ∧ r.tq = 0 ∧ r.tr = 1

section Boundary
variable {r0 r r' : Regs} {k : Nat} (h : DriverInv r0 k r) (hin : InputsOk r0) (hg : r.g = Limbs.zero)
include h hin

theorem DriverInv.of_iterateRule (hk : k < 12) (hr : iterateRule divstepsRule r = .ok r') :
    DriverInv r0 (k + 1) r' := by
  obtain ⟨r1, hr1, h1⟩ := h.iterate hin hk
  cases hr.symm.trans hr1
  exact h1

include hg

/-- One iteration past G = 0 (R104, R106). -/
theorem DriverInv.iterate_coasts (hk : k < 12) (hr : iterateRule divstepsRule r = .ok r') :
    r.CoastsTo r' ∧ r'.HoldsHaltMatrix := by
  have heta := h.eta_natAbs_le
  obtain ⟨hbounded, -⟩ := h.fg_limbsBounded hin
  obtain ⟨-, -, hcf, -⟩ := h.canonical
  obtain ⟨r1, r2, r3, h1, h2, h3, rfl⟩ := iterateRule_eq_ok.1 hr
  have hgen := divstepsRule_of_g_zero h.f_limb_odd (by rw [hg]; rfl) (by omega) (by omega)
  cases hgen.symm.trans h1
  have hd := updateDeWith_haltMatrix (setDivsteps_haltMatrix_matrix r _) (h.modinfo hin) (h.d_residueOk hin) h2
  obtain ⟨d, e, rfl⟩ := updateDeWith_ok h2
  have hfg := updateFgRule_haltMatrix (r := { r.setDivsteps (r.eta.toInt - 62, haltMatrix) with d := d, e := e })
    (setDivsteps_haltMatrix_matrix r _) hcf hbounded hg
  cases hfg.symm.trans h3
  have hd : value d = value r.d + if value r.d < 0 then value r.mod else 0 := hd
  have hmodEq : value d ≡ value r.d [ZMOD value r.mod] := by
    rw [hd]
    split
    · exact Int.add_modEq_right
    · rw [add_zero]
  refine ⟨⟨rfl, rfl, rfl, rfl, hmodEq, fun h0 => ?_⟩, rfl, rfl, rfl, rfl⟩
  rw [h0] at hd
  exact hd

theorem DriverInv.iterations_coast {n : Nat} (hkn : k + n ≤ 12) (hr : Machine.iterations divstepsRule n r = .ok r') :
    r.CoastsTo r' := by
  induction n generalizing r k with
  | zero =>
    cases hr
    exact .refl _
  | succ n ih =>
    obtain ⟨r1, h1, h2⟩ := bind_eq_ok.1 hr
    obtain ⟨hcoast, -⟩ := h.iterate_coasts hin hg (by omega) h1
    exact hcoast.trans (ih (h.of_iterateRule hin (by omega) h1) (hcoast.g.trans hg) (by omega) h2)

end Boundary

/-! ### The two drivers leave the same result -/

/-- Iterations one after the other. -/
theorem iterations_add (gen : Regs → Except FaultCode Regs) (m n : Nat) (r : Regs) :
    iterations gen (m + n) r = (iterations gen m r >>= iterations gen n) := by
  induction m generalizing r with
  | zero => simp
  | succ m ih =>
    rw [Nat.add_right_comm, iterations_succ, iterations_succ]
    cases iterateRule gen r <;> simp [ih]

section Coast
variable {r r' : Regs} (h : r.CoastsTo r')
include h

theorem Regs.CoastsTo.finalOk (hfinal : FinalOk r) : FinalOk r' := by
  obtain ⟨hg, hf⟩ := hfinal
  unfold FinalOk
  rw [h.g, h.f, h.x, h.mod]
  exact ⟨hg, hf.imp_right fun hf => hf.imp_right fun ⟨hx, hd, hf⟩ => ⟨hx, h.dZero hd, hf⟩⟩

/-- The folded residue of D is the same. -/
theorem Regs.CoastsTo.foldedD_modEq : foldedD r' ≡ foldedD r [ZMOD value r.mod] := by
  unfold foldedD
  rw [h.f]
  split
  · exact h.d.neg
  · exact h.d

end Coast

/-- Settles O57: MODINV goes on from where MODINV_VAR stops, and the iterations past G = 0 keep the result. -/
theorem driversAgree : Obligations.DriversAgree := by
  intro checks r0 rv hv
  obtain ⟨r1, k, r, hinit, hk, hr, hg, hend⟩ := modinvVarRule_ok hv
  have hin := inputsOk_of_initRule hinit
  obtain ⟨r1', rc, hinit', hrc, hc, hrule⟩ := modinvRule_eq_driverEnd hin
  cases hinit.symm.trans hinit'
  have h := driverInv_of_iterations hin hinit hk hr
  obtain ⟨j, hj⟩ := Nat.exists_eq_add_of_le hk
  rw [hj, iterations_add, hr, ok_bind] at hrc
  have hcoast := h.iterations_coast hin hg hj.ge hrc
  have hfinal := final_of_driverEnd hend
  obtain ⟨X, hX, hvalue, ⟨hcanon, -⟩, -⟩ := h.driverEnd_eq_ok hin hfinal
  obtain ⟨X', hX', hvalue', ⟨hcanon', -⟩, -⟩ := hc.driverEnd_eq_ok hin fun hchecks => hcoast.finalOk (hfinal hchecks)
  have hsame : X' = X := by
    obtain ⟨hmod, -, -⟩ := h.inputs
    have hres := hcoast.foldedD_modEq
    rw [hmod] at hres
    rw [← hcanon.canon_value, ← hcanon'.canon_value, hvalue, hvalue', hres]
  cases hend.symm.trans hX
  exact ⟨_, (hrule checks).trans hX', hsame, hsame, hcoast.f, hcoast.g, hg⟩

/-! ### x = 0 -/

section Zero
variable {r0 r1 r : Regs} {n : Nat} (hin : InputsOk r0) (hx : r0.x = Limbs.zero) (hinit : initRule r0 = .ok r1)
  (hn : n < 12) (hr : iterations divstepsRule (n + 1) r1 = .ok r)
include hin hx hinit hn hr

/-- With x = 0 every iteration is past G = 0 (R104). -/
theorem coasts_of_zero : r1.CoastsTo r ∧ r.HoldsHaltMatrix := by
  have h1 := driverInv_of_init hin hinit
  have hg : r1.g = Limbs.zero := by
    obtain rfl := initRule_ok hinit
    exact hx
  rw [iterations_succ_last] at hr
  obtain ⟨r', hr', hlast⟩ := bind_eq_ok.1 hr
  have hcoast := h1.iterations_coast hin hg (by omega) hr'
  obtain ⟨hcoast', hT⟩ := (driverInv_of_iterations hin hinit hn.le hr').iterate_coasts hin (hcoast.g.trans hg) hn hlast
  exact ⟨hcoast.trans hcoast', hT⟩

/-- η only falls (R104). -/
theorem eta_of_zero : r.eta = BitVec.ofInt 64 (-63 - 62 * n) := by
  have htriple := (driverInv_of_iterations hin hinit hn hr).triple
  have hzero : value Limbs.zero = 0 := by decide
  rw [hx, hzero, divsteps_of_g_zero] at htriple
  have heta := congrArg DivTriple.eta htriple
  simp only [stepsPerMatrix] at heta
  rw [← BitVec.ofInt_toInt (x := r.eta), ← heta]
  congr 1
  push_cast
  ring

/-- The end of a driver keeps d = 0: it is one of the final states of R102, and its own normal form. -/
theorem driverEnd_of_zero (checks : Bool) : driverEnd checks r = .ok { r0 with
    d := Limbs.zero, e := r.e, f := r0.mod, g := Limbs.zero, eta := BitVec.ofInt 64 (-63 - 62 * n),
    tu := 0x4000000000000000, tv := 0, tq := 0, tr := 1, iter := BitVec.ofNat 64 (n + 1) } := by
  obtain ⟨hcoast, htu, htv, htq, htr⟩ := coasts_of_zero hin hx hinit hn hr
  have heta := eta_of_zero hin hx hinit hn hr
  have h := driverInv_of_iterations hin hinit hn hr
  obtain ⟨hmod, hinv, hrx⟩ := h.inputs
  obtain rfl := initRule_ok hinit
  have hzero : value Limbs.zero = 0 := by decide
  have hd : value r.d = 0 := hcoast.dZero hzero
  have hf : r.f = r0.mod := hcoast.f
  have hg : r.g = Limbs.zero := hcoast.g.trans hx
  have hfinal : FinalOk r :=
    ⟨by rw [hg, hzero], .inr (.inr ⟨by rw [hrx, hx, hzero], hd, .inl (by rw [hf, hmod])⟩)⟩
  obtain ⟨X, hend, hX, ⟨hcanon, -⟩, -⟩ := h.driverEnd_eq_ok hin (checks := checks) fun _ => hfinal
  rw [foldedD, hd, neg_zero, ite_self, Int.zero_emod] at hX
  have hXzero : X = Limbs.zero := by rw [← hcanon.canon_value, hX, canon_zero]
  rw [hend, hXzero, heta, h.iter, htu, htv, htq, htr, hinv, hmod, hf, hg, hx]

end Zero

/-- Settles O55: MODINV ends at the boundary 12, MODINV_VAR after one iteration, since G is 0 from the start. -/
theorem inverseOfZeroIsZero : Obligations.InverseOfZeroIsZero := by
  intro s hm hx
  have hin : InputsOk s.regs := by
    obtain ⟨-, hpos, -⟩ := id hm
    have hzero : value Limbs.zero = 0 := by decide
    refine ⟨hm, ?_⟩
    rw [hx, XOk, hzero]
    exact ⟨by decide, by omega, hpos⟩
  obtain ⟨r1, r, hinit, hr, -, hrule⟩ := modinvRule_eq_driverEnd hin
  refine ⟨⟨_, exec_of_rule_ok (i := .modinv) ((hrule _).trans
    (driverEnd_of_zero (n := 11) hin hx hinit (by decide) hr _)), rfl⟩, ?_⟩
  obtain ⟨rv, hiter, -⟩ := (driverInv_of_init hin hinit).iterate hin (by decide)
  have hrv : iterations divstepsRule 1 r1 = .ok rv := bind_eq_ok.2 ⟨rv, hiter, rfl⟩
  have hg : rv.g = Limbs.zero := by
    obtain ⟨hcoast, -⟩ := coasts_of_zero hin hx hinit (by decide) hrv
    obtain rfl := initRule_ok hinit
    exact hcoast.g.trans hx
  have hloop : vtLoop maxIters r1 = .ok rv := bind_eq_ok.2 ⟨rv, hiter, if_pos hg⟩
  have hvar : ruleOf s.status.checks .modinvVar s.regs = _ := bind_eq_ok.2 ⟨r1, hinit, bind_eq_ok.2 ⟨rv, hloop,
    driverEnd_of_zero (n := 0) hin hx hinit (by decide) hrv _⟩⟩
  exact ⟨_, exec_of_rule_ok hvar, rfl⟩

end Sys2Proof.Machine
end

section
/-! SUPPORT. Raising a fault and what lasts of it (60_exceptions.md R113, R118), and the commands with CHECK_INVARIANTS
false (R114). -/

namespace Sys2Proof.Machine

/-! ### A fault -/

/-- Settles O13: a fault ends the running command, so the engine's turn then passes. -/
theorem raisingAFault : Obligations.RaisingAFault := by
  intro code s
  have hfaulted := raiseFault_faultedFrom code s
  obtain ⟨-, ⟨-, hframe⟩, -⟩ := id hfaulted
  obtain ⟨hmod, hinv⟩ := hframe.modulus
  exact ⟨hfaulted, not_mem_faultedRegs_iff, hmod, hinv, by simp [completeStep]⟩

/-- A faulted engine runs nothing (R34). -/
theorem State.Inv.busy_of_fault {s : State} (hs : s.Inv) (hfault : s.status.fault = true) :
    s.status.busy = false := by
  obtain ⟨⟨-, hexcl, -⟩, -⟩ := hs
  simpa [hfault] using hexcl

/-- Settles O15: reset clears STATUS, and no other effect of a step is one of a faulted engine. -/
theorem faultLastsUntilReset : Obligations.FaultLastsUntilReset := by
  intro s t hs hfault hstep
  have hbusy := hs.busy_of_fault hfault
  refine ⟨fun ⟨rest, hscript⟩ => ?_, fun hreset => ?_⟩
  · rw [step_cons hscript] at hstep
    cases hstep
    exact ⟨rfl, rfl⟩
  · obtain ⟨-, hstatus⟩ := (step_effect hstep).of_fault hfault hbusy hreset
    rw [hstatus]
    exact ⟨hfault, rfl, hbusy⟩

/-! ### The rules write their destinations only -/

section SameOutside
variable {cells : List Reg} {r r' : Regs}

theorem Regs.SameOutside.refl (cells : List Reg) (r : Regs) : Regs.SameOutside cells r r := fun _ _ => rfl

/-- A write of a cell of the list. -/
theorem Regs.SameOutside.set (h : Regs.SameOutside cells r r') {c : Reg} (hc : c ∈ cells) (w : Word) :
    Regs.SameOutside cells r (r'.set c w) := by
  intro c' hc'
  have hne : c' ≠ c := fun heq => hc' (heq ▸ hc)
  rw [get_set_other r' hne, h c' hc']

/-- A write of a five-limb register whose cells are in the list. -/
theorem Regs.SameOutside.setLimbs (h : Regs.SameOutside cells r r') {V : LimbReg} (hV : limbCells V ⊆ cells)
    (l : Limbs) : Regs.SameOutside cells r (r'.setLimbs V l) := by
  have hmem (i : Fin 5) : .limb V i ∈ cells := hV (by fin_cases i <;> simp [limbCells])
  rw [← set_limbs]
  exact ((((h.set (hmem 0) l.v0).set (hmem 1) l.v1).set (hmem 2) l.v2).set (hmem 3) l.v3).set (hmem 4) l.v4

/-- The drivers' destinations are the registers a fault draws for (R61, R113), so it is enough to keep MOD and
MODINV62. -/
theorem Regs.SameOutside.of_modulus (hcells : faultedRegs ⊆ cells) (hmod : r'.mod = r.mod)
    (hinv : r'.modinv62 = r.modinv62) : Regs.SameOutside cells r r' := by
  intro c hc
  obtain rfl | ⟨i, rfl⟩ := (not_mem_faultedRegs_iff c).1 fun hf => hc (hcells hf)
  · exact hinv
  · simp [Regs.get, Regs.limbs, hmod]

end SameOutside

/-- A command's rule changes no register outside the command's destinations (R61). -/
theorem ruleOf_sameOutside {checks : Bool} {i : Instr} {r r' : Regs} (h : ruleOf checks i r = .ok r') :
    Regs.SameOutside (writesOf i) r r' := by
  have hstart := Regs.SameOutside.refl (writesOf i) r
  cases i with
  | init =>
    obtain rfl := initRule_ok h
    have hvectors := (((hstart.setLimbs (V := .d) (by decide) Limbs.zero).setLimbs (V := .e) (by decide)
      Limbs.one).setLimbs (V := .f) (by decide) r.mod).setLimbs (V := .g) (by decide) r.x
    simpa only [Regs.set, Regs.setLimbs] using
      (hvectors.set (c := .eta) (by decide) (BitVec.ofInt 64 (-1))).set (c := .iter) (by decide) 0
  | divstepsCt | divstepsVt =>
    obtain ⟨res, rfl⟩ := divstepsRule_ok h
    exact ((((hstart.set (c := .eta) (by decide) _).set (c := .tu) (by decide) _).set (c := .tv) (by decide) _).set
      (c := .tq) (by decide) _).set (c := .tr) (by decide) _
  | updateDe =>
    obtain ⟨d, e, rfl⟩ := updateDeWith_ok h
    exact (hstart.setLimbs (V := .d) (by decide) d).setLimbs (V := .e) (by decide) e
  | updateFg =>
    obtain ⟨f, g, rfl⟩ := updateFgRule_ok h
    exact (hstart.setLimbs (V := .f) (by decide) f).setLimbs (V := .g) (by decide) g
  | normalize =>
    obtain ⟨d, rfl⟩ := normalizeRule_ok h
    exact hstart.setLimbs (V := .d) (by decide) d
  | modinv | modinvVar =>
    obtain ⟨hmod, hinv, -⟩ := ruleOf_ok h
    exact .of_modulus (by decide) hmod hinv

/-- Settles O14: the rule answers and writes its destinations only, or fails a check, which leaves the destinations
free. -/
theorem releaseCommandsAlwaysComplete : Obligations.ReleaseCommandsAlwaysComplete := by
  intro i s hchecks
  cases hrule : ruleOf s.status.checks i s.regs with
  | ok r =>
    refine ⟨_, exec_of_rule_ok hrule, rfl, ruleOf_sameOutside hrule, fun ⟨code, hfails⟩ => ?_⟩
    rw [hchecks, hfails] at hrule
    cases hrule
  | error code =>
    obtain ⟨t, hexec, -, hfree⟩ := exec_of_rule_error hrule
    have hdone := hfree hchecks
    obtain ⟨hstatus, ⟨-, hframe⟩, -⟩ := id hdone
    exact ⟨t, hexec, hstatus, hframe, fun _ => hdone⟩

end Sys2Proof.Machine
end

section
/-! SUPPORT. Reset at any time and the commands right after it (70_reset_and_hazards.md R127, R128), a host that polls
until a running command completes (R130), and one that writes nothing while it runs (R134). -/

namespace Sys2Proof.Machine

/-! ### Reset -/

/-- Settles O17. -/
theorem resetFromAnyState : Obligations.ResetFromAnyState := by
  intro s rest hscript
  obtain ⟨hregs, -⟩ := resetValues
  exact ⟨State.resetEngine { s with script := rest }, step_cons hscript, hregs, rfl, rfl, rfl, rfl, rfl, rfl, rfl,
    rfl, rfl⟩

/-- The five commands that check the modulus check it first, the two drivers by their INIT (R71, R87, R98). -/
theorem ruleOf_of_not_modinfoValid {checks : Bool} {i : Instr} {r : Regs}
    (hi : i ∈ [Instr.init, .updateDe, .normalize, .modinv, .modinvVar]) (h : ¬ModinfoValid r.mod r.modinv62) :
    ruleOf checks i r = .error .modinfoInvalid := by
  have hinit : initRule r = .error .modinfoInvalid := by rw [initRule_eq, if_neg h]
  cases i with
  | init => exact hinit
  | updateDe => exact (updateDeWith_eq _ r).trans (if_neg h)
  | normalize => exact (normalizeRule_eq r).trans (if_neg h)
  | modinv => simp [ruleOf, modinvRule, hinit]
  | modinvVar => simp [ruleOf, modinvVarRule, hinit]
  | divstepsCt | divstepsVt | updateFg => simp at hi

/-- Both divstep commands check first that F is odd (R79). -/
theorem ruleOf_of_even_f {checks : Bool} {i : Instr} {r : Regs} (hi : i ∈ [Instr.divstepsCt, .divstepsVt])
    (h : ¬r.f.v0.toNat % 2 = 1) : ruleOf checks i r = .error .fEven := by
  have hrule : divstepsRule r = .error .fEven := by rw [divstepsRule_eq, if_neg h]
  cases i with
  | divstepsCt | divstepsVt => exact hrule
  | _ => simp at hi

/-- UPDATE_FG refuses a matrix within its bounds whose determinant is not 2^62 (R93). -/
theorem updateFgRule_of_det_ne {r : Regs} (hT : TBoundOk r.matrix) (h : r.matrix.det ≠ radix) :
    updateFgRule r = .error .tDet := by
  rw [updateFgRule_eq, if_pos hT, if_neg h]

/-- Settles O18: after reset M = 0 is no modulus, F = 0 is even, and the zero matrix is within its bounds with
determinant 0. -/
theorem commandsRightAfterReset : Obligations.CommandsRightAfterReset := by
  refine ⟨⟨rfl, rfl⟩, rfl, fun s hregs => ?_⟩
  have hfails {i : Instr} {code : FaultCode} (h : ruleOf s.status.checks i Regs.reset = .error code) :
      ∃ t, exec i s = .next t ∧ State.CheckFailed code (writesOf i) s t := exec_of_rule_error (hregs ▸ h)
  exact ⟨fun i hi => hfails (ruleOf_of_not_modinfoValid hi (by decide)),
    fun i hi => hfails (ruleOf_of_even_f hi (by decide)), hfails (updateFgRule_of_det_ne (by decide) (by decide))⟩

/-! ### A host that polls STATUS -/

/-- A run takes the polls of STATUS first; each returns the STATUS of the start, since a read changes nothing. -/
theorem run_polls {s : State} {n : Nat} {rest : List Event}
    (hscript : s.script = List.replicate n (.read statusOffset 8) ++ rest) (k : Nat) :
    core.run (n + k) s = core.run k
      { s with script := rest, readData := List.replicate n (statusWord s.status) ++ s.readData } := by
  induction n generalizing s with
  | zero =>
    obtain rfl : s.script = rest := hscript
    simp
  | succ n ih =>
    have hpoll := step_read_status (rest := List.replicate n (.read statusOffset 8) ++ rest) hscript rfl
      slotAt_statusOffset
    rw [Nat.add_right_comm, run_succ_of_step hpoll, ih rfl]
    simp [List.replicate_succ', List.append_assoc]

/-- With no event to come, the engine's turn ends the running command (R64, R130; log 2). -/
theorem step_ends_running_command {s : State} (hs : s.Inv) (hbusy : s.status.busy = true) (hscript : s.script = []) :
    ∃ t, step s = .next t ∧ t.status.busy = false ∧ (t.status.done = true ∨ t.status.fault = true) ∧
      t.readData = s.readData := by
  obtain ⟨-, -, hcmd, -⟩ := hs
  have hrun : s.RunsCommand := hcmd (.inl hbusy)
  cases hd : decode (fetchWord s) with
  | error why =>
    rw [State.RunsCommand, hd] at hrun
    cases hrun
  | ok i =>
    obtain ⟨hturn, -⟩ := stepRunsTheDecodedCommand s i hbusy hd
    obtain ⟨t, hexec, hidle, -, -, ⟨-, hread⟩, hend⟩ := everyCommandCompletesOrFaults i s
    refine ⟨t, (hturn hscript).trans hexec, hidle, ?_, hread⟩
    obtain ⟨hdone, -⟩ | ⟨-, -, hfault, -⟩ := hend
    · exact .inl hdone
    · exact .inr hfault

/-- Settles O26: the polls keep the invariant and leave an empty script, and the next step is the engine's turn. -/
theorem runningCommandCompletesUnderPolling : Obligations.RunningCommandCompletesUnderPolling := by
  intro s hs hbusy hpolls
  have hscript : s.script = List.replicate s.script.length (.read statusOffset 8) ++ [] := by
    rw [List.append_nil]
    exact List.eq_replicate_of_mem hpolls
  rw [run_polls hscript 1]
  obtain ⟨t, hstep, hend⟩ := step_ends_running_command
    (s := { s with script := [], readData := List.replicate s.script.length (statusWord s.status) ++ s.readData })
    (inv_of_same hs rfl rfl) hbusy rfl
  exact ⟨t, run_succ_of_step hstep 0, hend⟩

/-! ### A host that writes nothing while a command runs -/

/-- Only a write while a command runs raises BUSY_WRITE (R48). -/
theorem StepEffect.fcode_of_not_busy {s t : State} (h : StepEffect s t) (hbusy : s.status.busy = false)
    (hcode : s.status.fcode ≠ .busyWrite) : t.status.fcode ≠ .busyWrite := by
  cases h with
  | quiet _ hstatus | reset _ _ hstatus | store _ _ _ _ _ hstatus | accept _ _ _ hstatus | illegal _ _ hstatus =>
    simp [hstatus, hcode]
  | busyWrite hrun | completed hrun | checkFault hrun | unspecified hrun => simp [hbusy] at hrun

/-- The engine's turn never raises BUSY_WRITE: a command's code is that of its check (R110, R112). -/
theorem completeStep_fcode {s t : State} (h : completeStep s = .next t) (hcode : s.status.fcode ≠ .busyWrite) :
    t.status.fcode ≠ .busyWrite := by
  obtain ⟨-, hturn⟩ | ⟨i, -, -, hturn⟩ | ⟨why, -, -, hturn⟩ := completeStep_cases s <;> rw [hturn] at h
  · cases h
    exact hcode
  · obtain ⟨u, hexec, -, -, -, -, ⟨-, -, hkept⟩ | ⟨-, -, -, hcheck⟩⟩ := everyCommandCompletesOrFaults i s <;>
      cases hexec.symm.trans h
    · rwa [hkept]
    · exact fun hc => hcheck (by simp [hc])
  · cases h

/-- Settles O25: a write comes only while nothing runs, and no other step raises BUSY_WRITE. -/
theorem politeHostNeverFaultsOnAWrite : Obligations.PoliteHostNeverFaultsOnAWrite := by
  intro s t hpolite hstep hcode
  cases hscript : s.script with
  | nil =>
    rw [step_nil hscript] at hstep
    exact completeStep_fcode hstep hcode
  | cons ev rest =>
    have hev := hpolite ev rest hscript
    have heffect := step_effect hstep
    rw [step_cons hscript] at hstep
    obtain ⟨off, width, -, -, rfl⟩ | ⟨off, width, v, rfl, -, -⟩ | ⟨-, rfl⟩ | ⟨-, hturn⟩ := applyEvent_cases hstep
    · obtain ⟨v, h⟩ | h := hostRead_cases off { s with script := rest } <;> rw [h] <;> exact hcode
    · have hbusy : s.status.busy = false := by
        simp only [State.polite, Bool.and_eq_true, Bool.not_eq_true'] at hev
        exact hev.2
      exact heffect.fcode_of_not_busy hbusy hcode
    · simp
    · exact completeStep_fcode hturn hcode

end Sys2Proof.Machine
end
